-- ==== Sys2Proof/Word.lean ====
section
/-! DEFINITION. The word types of MBCORE (00_scope R7, R8): all values are unsigned. -/
namespace Sys2Proof

/-- A byte of the frame buffer, of a frame, of the transport streams (R7). -/
abbrev Byte := BitVec 8

/-- A 16-bit register value, start register, register count or CRC (R7). -/
abbrev Half := BitVec 16

/-- A 32-bit register value, and the width of `RES` and of the status read port (R7, R11, R18). -/
abbrev Word := BitVec 32

/-- A 9-bit byte count: `TXCNT`, `RXCNT`, `EXPLEN` (R12, R17). -/
abbrev Count := BitVec 9

/-- The 48-bit word of the command port (R50). -/
abbrev CmdWord := BitVec 48

end Sys2Proof
end

