-- ==== Sys2Proof/Syntax.lean ====
section
/-! DEFINITION. The thirteen commands (30_encoding R53), and the assembler's lines with the five pseudo-instructions
(R65, R66). -/
namespace Sys2Proof

/-- A command with the operands its format uses (R52); the must-be-zero fields have no place here. -/
inductive Instr where
  /-- `STB off, byte` (R70). -/
  | stb (off : Byte) (byte : Byte)
  /-- `LDB off` (R71). -/
  | ldb (off : Byte)
  /-- `ENC16 off, value16` (R72). -/
  | enc16 (off : Byte) (value : Half)
  /-- `ENC32 off, value32` (R73); the value is `{B, C}`. -/
  | enc32 (off : Byte) (value : Word)
  /-- `DEC16 off` (R74). -/
  | dec16 (off : Byte)
  /-- `DEC32 off` (R75). -/
  | dec32 (off : Byte)
  /-- `CRC.GEN len` (R82). -/
  | crcGen (len : Half)
  /-- `CRC.APP len` (R83). -/
  | crcApp (len : Half)
  /-- `CRC.CHK len` (R84). -/
  | crcChk (len : Half)
  /-- `BLD.RH addr, start, count` (R91). -/
  | bldRh (addr : Byte) (start : Half) (count : Half)
  /-- `BLD.RI addr, start, count` (R92). -/
  | bldRi (addr : Byte) (start : Half) (count : Half)
  /-- `BLD.WM addr, start, count` (R93). -/
  | bldWm (addr : Byte) (start : Half) (count : Half)
  /-- `XACT psize` (R100). -/
  | xact (psize : Half)
  deriving DecidableEq, Repr

/-- The names an assembler line may begin with: the thirteen of R65, then the five of R66. -/
inductive Mnemonic where
  | stb | ldb | enc16 | enc32 | dec16 | dec32 | crcGen | crcApp | crcChk | bldRh | bldRi | bldWm | xact
  | xactR | xactW | streg | ldreg | ldreg32
  deriving DecidableEq, Repr

/-- One line of assembler text after its numbers are read (R65): a name and its operands in order. -/
structure AsmLine where
  mnemonic : Mnemonic
  operands : List Nat
  deriving DecidableEq, Repr

end Sys2Proof
end

