-- ==== Sys2Proof/WellFormed.lean ====
section
/-! DEFINITION. Which commands have an operand within their limits (20_memory R36), and which assembler lines fit
(30_encoding R65, R66). The widths of a command's fields are its types. -/
namespace Sys2Proof

/-- The command's operand is inside the limit of R36's table, written as the table's "that is" forms. A command
that is not well formed still decodes: it raises `BOUNDS`. -/
def Instr.wellFormed : Instr → Bool
  | .stb _ _ => true
  | .ldb _ => true
  | .enc16 off _ => off.toNat != 255
  | .enc32 off _ => off.toNat < 253
  | .dec16 off => off.toNat != 255
  | .dec32 off => off.toNat < 253
  | .crcGen len => len.toNat ≤ 256
  | .crcApp len => len.toNat < 255
  | .crcChk len => 2 ≤ len.toNat && len.toNat ≤ 256
  | .bldRh _ _ _ => true
  | .bldRi _ _ _ => true
  | .bldWm _ _ count => count.toNat < 124
  | .xact psize => 2 ≤ psize.toNat && psize.toNat < 255

/-- The line has the operands its name takes and every one, and every computed field, fits its width (R65; R66: "An
assembler rejects an expansion whose computed field does not fit its width"). -/
def AsmLine.wellFormed (l : AsmLine) : Bool :=
  match l.mnemonic, l.operands with
  | .stb, [off, byte] => off < 256 && byte < 256
  | .ldb, [off] => off < 256
  | .enc16, [off, value] => off < 256 && value < 65536
  | .enc32, [off, value] => off < 256 && value < 4294967296
  | .dec16, [off] => off < 256
  | .dec32, [off] => off < 256
  | .crcGen, [len] => len < 65536
  | .crcApp, [len] => len < 65536
  | .crcChk, [len] => len < 65536
  | .bldRh, [addr, start, count] => addr < 256 && start < 65536 && count < 65536
  | .bldRi, [addr, start, count] => addr < 256 && start < 65536 && count < 65536
  | .bldWm, [addr, start, count] => addr < 256 && start < 65536 && count < 65536
  | .xact, [psize] => psize < 65536
  | .xactR, [] => true
  | .xactW, [count] => 7 + 2 * count < 65536
  | .streg, [k, value] => 7 + 2 * k < 256 && value < 65536
  | .ldreg, [k] => 3 + 2 * k < 256
  | .ldreg32, [k] => 3 + 2 * k < 256
  | _, _ => false

end Sys2Proof
end

