-- ==== Sys2Proof/Decode.lean ====
section
/-! DEFINITION. The command word (30_encoding R50 to R55): its fields, the opcode map, the total decoder, the encoder,
the assembler (R65, R66), and the decoder over the opcode table's numbering. -/
namespace Sys2Proof

/-- `OP = w[47:40]` (R50). -/
def fieldOp (w : CmdWord) : Byte := w.extractLsb' 40 8

/-- `A = w[39:32]` (R50). -/
def fieldA (w : CmdWord) : Byte := w.extractLsb' 32 8

/-- `B = w[31:16]` (R50). -/
def fieldB (w : CmdWord) : Half := w.extractLsb' 16 16

/-- `C = w[15:0]` (R50). -/
def fieldC (w : CmdWord) : Half := w.extractLsb' 0 16

/-- The word `OP A BBBB CCCC` (R50). -/
def packFields (op a : Byte) (b c : Half) : CmdWord := op ++ a ++ b ++ c

/-- A row of the opcode map (R53). -/
structure OpRow where
  mnemonic : String
  pattern : CmdWord
  mask : CmdWord
  deriving DecidableEq, Repr

/-- The word is the command of the row: `w & mask = match` (R53). -/
def OpRow.covers (r : OpRow) (w : CmdWord) : Bool := w &&& r.mask == r.pattern

/-- The opcode map of R53, row by row. -/
def opcodeRows : List OpRow :=
  [⟨"STB", 0x010000000000#48, 0xFF00FFFFFF00#48⟩, ⟨"LDB", 0x020000000000#48, 0xFF00FFFFFFFF#48⟩,
   ⟨"ENC16", 0x030000000000#48, 0xFF00FFFF0000#48⟩, ⟨"ENC32", 0x040000000000#48, 0xFF0000000000#48⟩,
   ⟨"DEC16", 0x050000000000#48, 0xFF00FFFFFFFF#48⟩, ⟨"DEC32", 0x060000000000#48, 0xFF00FFFFFFFF#48⟩,
   ⟨"CRC.GEN", 0x100000000000#48, 0xFFFFFFFF0000#48⟩] ++
  [⟨"CRC.APP", 0x110000000000#48, 0xFFFFFFFF0000#48⟩, ⟨"CRC.CHK", 0x120000000000#48, 0xFFFFFFFF0000#48⟩,
   ⟨"BLD.RH", 0x200000000000#48, 0xFF0000000000#48⟩, ⟨"BLD.RI", 0x210000000000#48, 0xFF0000000000#48⟩,
   ⟨"BLD.WM", 0x220000000000#48, 0xFF0000000000#48⟩, ⟨"XACT", 0x300000000000#48, 0xFFFFFFFF0000#48⟩]

/-- What a 48-bit word is: a command, a known opcode with a 1 in a must-be-zero field (R54), or an unknown opcode
(R55). -/
inductive Decoded where
  | cmd (i : Instr)
  | rsvd
  | illop
  deriving DecidableEq, Repr

/-- The command if its must-be-zero fields are zero, else `RSVD` (R54). -/
def requireZero (zero : Bool) (i : Instr) : Decoded := if zero then .cmd i else .rsvd

/-- The decoder, total on 48-bit words (R55), format by format (R52, R53). -/
def decode (w : CmdWord) : Decoded :=
  let op := fieldOp w
  let a := fieldA w
  let b := fieldB w
  let c := fieldC w
  if op = 0x01#8 then requireZero (b == 0 && c.extractLsb' 8 8 == 0) (.stb a (c.extractLsb' 0 8))
  else if op = 0x02#8 then requireZero (b == 0 && c == 0) (.ldb a)
  else if op = 0x03#8 then requireZero (b == 0) (.enc16 a c)
  else if op = 0x04#8 then .cmd (.enc32 a (b ++ c))
  else if op = 0x05#8 then requireZero (b == 0 && c == 0) (.dec16 a)
  else if op = 0x06#8 then requireZero (b == 0 && c == 0) (.dec32 a)
  else if op = 0x10#8 then requireZero (a == 0 && b == 0) (.crcGen c)
  else if op = 0x11#8 then requireZero (a == 0 && b == 0) (.crcApp c)
  else if op = 0x12#8 then requireZero (a == 0 && b == 0) (.crcChk c)
  else if op = 0x20#8 then .cmd (.bldRh a b c)
  else if op = 0x21#8 then .cmd (.bldRi a b c)
  else if op = 0x22#8 then .cmd (.bldWm a b c)
  else if op = 0x30#8 then requireZero (a == 0 && b == 0) (.xact c)
  else .illop

/-- The command's word (R50, R52, R53, R56). -/
def encode : Instr → CmdWord
  | .stb off byte => packFields 0x01#8 off 0 (0#8 ++ byte)
  | .ldb off => packFields 0x02#8 off 0 0
  | .enc16 off value => packFields 0x03#8 off 0 value
  | .enc32 off value => packFields 0x04#8 off (value.extractLsb' 16 16) (value.extractLsb' 0 16)
  | .dec16 off => packFields 0x05#8 off 0 0
  | .dec32 off => packFields 0x06#8 off 0 0
  | .crcGen len => packFields 0x10#8 0 0 len
  | .crcApp len => packFields 0x11#8 0 0 len
  | .crcChk len => packFields 0x12#8 0 0 len
  | .bldRh addr start count => packFields 0x20#8 addr start count
  | .bldRi addr start count => packFields 0x21#8 addr start count
  | .bldWm addr start count => packFields 0x22#8 addr start count
  | .xact psize => packFields 0x30#8 0 0 psize

/-- The command of an assembler line, pseudo-instructions expanded (R65, R66); none where the line is rejected. -/
def assemble (l : AsmLine) : Option Instr :=
  if !l.wellFormed then none else
  match l.mnemonic, l.operands with
  | .stb, [off, byte] => some (.stb (.ofNat 8 off) (.ofNat 8 byte))
  | .ldb, [off] => some (.ldb (.ofNat 8 off))
  | .enc16, [off, value] => some (.enc16 (.ofNat 8 off) (.ofNat 16 value))
  | .enc32, [off, value] => some (.enc32 (.ofNat 8 off) (.ofNat 32 value))
  | .dec16, [off] => some (.dec16 (.ofNat 8 off))
  | .dec32, [off] => some (.dec32 (.ofNat 8 off))
  | .crcGen, [len] => some (.crcGen (.ofNat 16 len))
  | .crcApp, [len] => some (.crcApp (.ofNat 16 len))
  | .crcChk, [len] => some (.crcChk (.ofNat 16 len))
  | .bldRh, [addr, start, count] => some (.bldRh (.ofNat 8 addr) (.ofNat 16 start) (.ofNat 16 count))
  | .bldRi, [addr, start, count] => some (.bldRi (.ofNat 8 addr) (.ofNat 16 start) (.ofNat 16 count))
  | .bldWm, [addr, start, count] => some (.bldWm (.ofNat 8 addr) (.ofNat 16 start) (.ofNat 16 count))
  | .xact, [psize] => some (.xact (.ofNat 16 psize))
  | .xactR, [] => some (.xact 6#16)
  | .xactW, [count] => some (.xact (.ofNat 16 (7 + 2 * count)))
  | .streg, [k, value] => some (.enc16 (.ofNat 8 (7 + 2 * k)) (.ofNat 16 value))
  | .ldreg, [k] => some (.dec16 (.ofNat 8 (3 + 2 * k)))
  | .ldreg32, [k] => some (.dec32 (.ofNat 8 (3 + 2 * k)))
  | _, _ => none

/-- The command word whose low `nbits` bits are `w` and whose other bits are zero, bits numbered as
spec/opcode_table.json numbers them (log 14). -/
def tableWord (nbits w : Nat) : CmdWord := .ofNat 48 (w % 2 ^ nbits)

/-- The command the decoder reads from that word; a word of more than 48 bits is none (R50). -/
def decodeTableWord (nbits w : Nat) : Option Instr :=
  if nbits > 48 then none else
  match decode (tableWord nbits w) with
  | .cmd i => some i
  | .rsvd => none
  | .illop => none

end Sys2Proof
end

