-- ==== Sys2Proof/Config.lean ====
section
/-! DEFINITION. What the implementation fixes, and the free values: constants without a body, so that no proof can
use what they are. -/
namespace Sys2Proof.Config

/-- `CAP`, the frame buffer capacity in bytes (R5). -/
def cap : Nat := 256

/-- The default of the open parameter `TIMEOUT_MS`, in milliseconds (R6). -/
def timeoutMsDefault : Nat := 10000

/-- FREE VALUE (log 2). The content of `BUF[i]` after the `epoch`-th reset until a command writes it: unspecified
but stable (R26, U4). The same for two runs with equal `epoch` (DESIGN CHOICE, log 2). -/
opaque bufAfterReset (epoch i : Nat) : Byte

/-- FREE VALUE (log 3). The byte of the transport's `n`-th answer (R108), the same for two runs (DESIGN CHOICE, log 3). -/
opaque rxByte (n : Nat) : Byte

/-- FREE VALUE (log 3). Whether the transport's `n`-th answer is a success (R108), the same for two runs (DESIGN CHOICE,
log 3). -/
opaque rxOk (n : Nat) : Bool

/-- FREE VALUE (log 8). What status register `reg` reads as when the tick counter is `tick` (R20, U5), the same for two
runs (DESIGN CHOICE, log 8). -/
opaque busyRead (tick reg : Nat) : Word

end Sys2Proof.Config
end

