-- ==== Sys2Proof/Machine/Operands.lean ====
section
/-! DEFINITION. Operand assembly (30_encoding R56): the byte orders (20_memory R31, R32) and the bounds check (R36). -/
namespace Sys2Proof.Machine

/-- `v[15:8]` (R31). -/
def hiByte (v : Half) : Byte := v.extractLsb' 8 8

/-- `v[7:0]` (R31). -/
def loByte (v : Half) : Byte := v.extractLsb' 0 8

/-- A 16-bit value as it lies in `BUF`: most significant byte first (R31). -/
def bigEndian16 (v : Half) : List Byte := [hiByte v, loByte v]

/-- `{B, C}[31:16]`, the more significant half of a 32-bit operand (R56). -/
def hiHalf (v : Word) : Half := v.extractLsb' 16 16

/-- `{B, C}[15:0]`, the less significant half of a 32-bit operand (R56). -/
def loHalf (v : Word) : Half := v.extractLsb' 0 16

/-- A 32-bit value as it lies in `BUF`: most significant byte first (R31). -/
def bigEndian32 (v : Word) : List Byte := bigEndian16 (hiHalf v) ++ bigEndian16 (loHalf v)

/-- A CRC as it lies in `BUF` and on the wire: low byte first (R32, R86). -/
def littleEndian16 (c : Half) : List Byte := [loByte c, hiByte c]

/-- An access of `n` bytes at `base` would reach an index `>= CAP` (R36). -/
def beyondBuf (base n : Nat) : Bool := base + n > Config.cap

end Sys2Proof.Machine
end

