-- ==== Sys2Proof/Machine/State.lean ====
section
/-! DEFINITION. The state of MBCORE (10_state.md) with its ports as plain data, the reasons a step can stop, and the
state after reset. -/
namespace Sys2Proof.Machine

/-- `PHASE` (R12). -/
inductive Phase where
  | idle | tx | rx | check
  deriving DecidableEq, Repr

/-- The command errors (R130). -/
inductive CmdError where
  | illop | rsvd | bounds
  deriving DecidableEq, Repr

/-- `ModbusResult`, the outcome of one transaction (R16, R134; flat names, C3). -/
inductive ModbusResult where
  | ok
  | slaveException (code : Byte)
  | sizeMismatch
  | crcMismatch
  deriving DecidableEq, Repr

/-- The transport's answer to one read request (R108); the byte is ignored when `ok` is false. -/
structure RxAnswer where
  byte : Byte
  ok : Bool
  deriving DecidableEq, Repr

/-- What the block gives the transport: a transmitted byte with its `last` marker (R106), or a read request carrying
the timeout (R108). -/
inductive TransportEvent where
  | txByte (byte : Byte) (last : Bool)
  | readReq (timeoutMs : Nat)
  deriving DecidableEq, Repr

/-- A trace event (R124, R143); a dump holds the bytes `BUF[0..n)` of the range concerned. -/
inductive TraceEvent where
  | txFrame (dump : List Byte)
  | rxFrame (dump : List Byte)
  | sizeErr
  | crcErr
  deriving DecidableEq, Repr

/-- The bytes of `BUF` written since reset (R21, R30): index and byte. An unlisted index is a byte nothing has
written since reset; what it reads as is `Config.bufAfterReset` (R26, log 2). -/
abbrev Memory := List Host.Cell

/-- The one form a `Memory` has: indices strictly rising, each an index of `BUF` (R30). -/
abbrev Memory.wf (m : Memory) : Prop :=
  m.Pairwise (fun c d => c.1 < d.1) ∧ ∀ c ∈ m, c.1 < Config.cap

/-- The machine's state. -/
structure State where
  /-- `BUF` (R21). -/
  buf : Memory
  /-- `RES` (R11). -/
  res : Word
  /-- `PHASE` (R12). -/
  phase : Phase
  /-- `EXCF` (R14). -/
  excf : Bool
  /-- `VALID` (R15). -/
  valid : Bool
  /-- `RESULT` (R16). -/
  result : BitVec 16
  /-- `RXCNT` (R17). -/
  rxcnt : Count
  /-- `EXPLEN` (R17). -/
  explen : Count
  /-- `ERR.CAUSE` (R19). -/
  cause : BitVec 4
  /-- `ERR.STICKY` (R19). -/
  sticky : Bool
  /-- `CRCREG`, hidden (R23, R80). -/
  crcreg : BitVec 16
  /-- `REQFC`, hidden (R23, R103). -/
  reqfc : Byte
  /-- `PSZ`, hidden (R23, R103). -/
  psz : Byte
  /-- `TXCNT`, hidden (R23, R105). -/
  txcnt : Count
  /-- `EXCODE`, hidden (R23, R111). -/
  excode : Byte
  /-- A read request is outstanding: issued, and neither answered nor forgotten (R25, R108, R151). -/
  awaiting : Bool
  /-- PORT: the command words pending at the host, next first (R51). -/
  cmds : List CmdWord
  /-- PORT: the transport's ready line in the coming steps that offer a byte; ready after its end (R106). -/
  txReady : List Bool
  /-- PORT: the transport's coming answers; free values after its end (R108). -/
  rxAns : List RxAnswer
  /-- PORT: whether the transport answers, in the coming steps in which a read request is outstanding; it does after its
  end (R108, log 16). -/
  rxReady : List Bool
  /-- PORT: the reset input in the coming steps; not asserted after its end (R150). -/
  resetIn : List Bool
  /-- PORT: what the transport was given so far, oldest first (R22, R44). -/
  bus : List TransportEvent
  /-- PORT: the trace events offered so far, oldest first (R143). -/
  trace : List TraceEvent
  /-- MODEL: the parameter `TIMEOUT_MS` (R6). -/
  timeoutMs : Nat
  /-- MODEL: the number of resets so far; index of the free buffer contents. -/
  epoch : Nat
  /-- MODEL: the number of answers used up so far; index of the free answers. -/
  reads : Nat
  /-- MODEL: the number of busy steps and resets so far; index of the free status reads (log 8). -/
  tick : Nat
  deriving DecidableEq, Repr

/-- The machine stops. Nothing in the spec stops this block; the one reason is the model's own. -/
inductive Fault where
  /-- Raised by an engine step of `XACT` that would touch `BUF` at an index outside `0..255` or below 0 (R30: no such
  location). Safe: no state with `State.Inv` raises it (log 10). -/
  | bufIndex (index : Nat)
  deriving DecidableEq, Repr

/-- No meaning. Answered by no arm of this model. -/
inductive Refusal where
  /-- An instruction with no meaning yet. Safe: the machine stops. -/
  | notModelled (mnemonic : String)
  deriving DecidableEq, Repr

/-- The machine right after reset (R25, R26): status registers and flags 0, `PHASE = IDLE`, `BUF` unspecified; hidden
registers 0 (DESIGN CHOICE, unspecified in R25, log 5); nothing pending at the ports (DESIGN CHOICE, logs 3, 4, 6, 7, 16). -/
def State.reset : State where
  buf := []
  res := 0
  phase := .idle
  excf := false
  valid := false
  result := 0
  rxcnt := 0
  explen := 0
  cause := 0
  sticky := false
  crcreg := 0
  reqfc := 0
  psz := 0
  txcnt := 0
  excode := 0
  awaiting := false
  cmds := []
  txReady := []
  rxAns := []
  rxReady := []
  resetIn := []
  bus := []
  trace := []
  timeoutMs := Config.timeoutMsDefault
  epoch := 0
  reads := 0
  tick := 0

end Sys2Proof.Machine
end

