-- ==== Sys2Proof/Machine/Ops.lean ====
section
/-! DEFINITION. The named operations over `BUF`, `RES`, `ERR` and the ports that the meanings share; a command error
(60_exceptions R130 to R133) as one operation. There is no return from one: "Trap return" does not exist (R138). -/
namespace Sys2Proof.Machine

/-! ### The buffer -/

/-- The byte listed at index `i`, if one is. -/
def Memory.load : Memory → Nat → Option Byte
  | [], _ => none
  | (k, b) :: m, i => if k = i then some b else Memory.load m i

/-- Lists byte `b` at index `i`, keeping the indices rising. -/
def Memory.store : Memory → Nat → Byte → Memory
  | [], i, b => [(i, b)]
  | (k, v) :: m, i, b =>
    if i < k then (i, b) :: (k, v) :: m
    else if i = k then (i, b) :: m
    else (k, v) :: Memory.store m i b

/-- Lists the bytes at `base`, `base + 1`, ... in order. -/
def Memory.storeBytes : Memory → Nat → List Byte → Memory
  | m, _, [] => m
  | m, base, b :: bs => Memory.storeBytes (Memory.store m base b) (base + 1) bs

/-- `BUF[i]` (R8, R39): the byte last written there, else the unspecified but stable reset content (R26). -/
def State.rd (s : State) (i : Nat) : Byte :=
  match Memory.load s.buf i with
  | some b => b
  | none => Config.bufAfterReset s.epoch i

/-- `BUF[0..n)` (R8). -/
def State.rdFirst (s : State) (n : Nat) : List Byte := (List.range n).map s.rd

/-- `BUF[i] <- b`. -/
def State.wr (s : State) (i : Nat) (b : Byte) : State := { s with buf := Memory.store s.buf i b }

/-- `BUF[base] <- bs[0]`, `BUF[base + 1] <- bs[1]`, ... -/
def State.wrBytes (s : State) (base : Nat) (bs : List Byte) : State :=
  { s with buf := Memory.storeBytes s.buf base bs }

/-- `MemRead(i, 2)`: the byte at `i` more significant (R8, R31). -/
def State.rd16 (s : State) (i : Nat) : Half := s.rd i ++ s.rd (i + 1)

/-- `MemRead(i, 4)`: the byte at `i` most significant (R8, R31). -/
def State.rd32 (s : State) (i : Nat) : Word := s.rd16 i ++ s.rd16 (i + 2)

/-! ### Results and errors -/

/-- `RES <- v` (R11). -/
def State.setRes (s : State) (v : Word) : State := { s with res := v }

/-- The command does not raise: `ERR.CAUSE <- 0`, `ERR.STICKY` as it was (R133). -/
def State.retire (s : State) : State := { s with cause := 0 }

/-- The cause code of a command error (R130). -/
def CmdError.code : CmdError → BitVec 4
  | .illop => 1
  | .rsvd => 2
  | .bounds => 3

/-- `raise CmdError(e)`: `ERR.CAUSE` and `ERR.STICKY`, nothing else (R131). -/
def State.raise (s : State) (e : CmdError) : State := { s with cause := e.code, sticky := true }

/-- A command that raises `BOUNDS` when `bad` holds, and otherwise has its effect and retires (R36, R131, R133). -/
def checked (bad : Bool) (s effect : State) : Host.Outcome State Fault Refusal :=
  if bad then .next (s.raise .bounds) else .next effect.retire

/-! ### The ports -/

/-- `BUSY` (R13). -/
def State.busy (s : State) : Bool := s.phase != .idle

/-- `Trace(ev)` (R143). -/
def State.emit (s : State) (ev : TraceEvent) : State := { s with trace := s.trace ++ [ev] }

/-- The block gives the transport `ev` (R22). -/
def State.send (s : State) (ev : TransportEvent) : State := { s with bus := s.bus ++ [ev] }

/-- The transport's `k`-th answer from now on: the listed one, else a free value (R108). That the free
value depends on the answer's number alone, so that two runs share it, is the model's choice (DESIGN CHOICE, log 3). -/
def State.answerAt (s : State) (k : Nat) : RxAnswer :=
  match s.rxAns[k]? with
  | some a => a
  | none => ⟨Config.rxByte (s.reads + k), Config.rxOk (s.reads + k)⟩

/-- A read request is issued, carrying `TIMEOUT_MS`, and is outstanding (R108). -/
def State.request (s : State) : State := { s.send (.readReq s.timeoutMs) with awaiting := true }

/-- The outstanding read request is answered, the answer used up (R108). -/
def State.takeAnswer (s : State) : State :=
  { s with awaiting := false, rxAns := s.rxAns.tail, reads := s.reads + 1 }

/-- What reset leaves (R150, R151): the state of R25, `BUF` with new unspecified contents, an outstanding read request
forgotten; the outside world keeps what it has (words pending at the host, answers of the transport, bytes already sent;
DEDUCED, log 19). That the new contents depend on the number of resets alone, so that two runs with equal `epoch` have the
same whatever `BUF` held before, is the model's choice (DESIGN CHOICE, log 2). The tick counter moves on, so that a status
read before the reset and one after it are unrelated (log 8). -/
def State.afterReset (s : State) : State :=
  { State.reset with
    cmds := s.cmds, txReady := s.txReady, rxAns := s.rxAns, rxReady := s.rxReady, resetIn := s.resetIn, bus := s.bus,
    trace := s.trace, timeoutMs := s.timeoutMs, epoch := s.epoch + 1, reads := s.reads, tick := s.tick + 1 }

/-- Is reset asserted in the coming step (R150)? -/
def State.resetNow (s : State) : Bool := s.resetIn.head? == some true

/-- The reset input moves on to the step after. -/
def State.pastReset (s : State) : State := { s with resetIn := s.resetIn.tail }

end Sys2Proof.Machine
end

