-- ==== Sys2Proof/Machine/Crc.lean ====
section
/-! DEFINITION. CRC16Engine (41_crc16 R80 to R87). The procedure is R80's, which the spec itself supplies from general
knowledge (G1, log 15). -/
namespace Sys2Proof.Machine

/-- One shift of `CRCREG` (R80). -/
def crcShift (c : BitVec 16) : BitVec 16 := if c.getLsbD 0 then (c >>> 1) ^^^ 0xA001#16 else c >>> 1

/-- `k` shifts (R80: "repeat 8 times"). -/
def crcShifts : Nat → BitVec 16 → BitVec 16
  | 0, c => c
  | k + 1, c => crcShifts k (crcShift c)

/-- One byte into `CRCREG`: exclusive-or into the low 8 bits, then eight shifts (R80). -/
def crcByte (c : BitVec 16) (b : Byte) : BitVec 16 := crcShifts 8 (c ^^^ b.setWidth 16)

/-- `crc16(s)` (R80). -/
def crc16 (bytes : List Byte) : BitVec 16 := bytes.foldl crcByte 0xFFFF#16

/-- `CRCREG` after the evaluation of `crc16` over `BUF[0..n)`: it is the value of the evaluation (R23, R80, log 11). -/
def State.crcOver (s : State) (n : Nat) : State := { s with crcreg := crc16 (s.rdFirst n) }

/-- The CRC of `BUF[0..n)` at `BUF[n]`, `BUF[n + 1]`, low byte first (R83, R104). -/
def State.appendCrc (s : State) (n : Nat) : State :=
  (s.crcOver n).wrBytes n (littleEndian16 (s.crcOver n).crcreg)

/-- The received CRC of a frame of `n` bytes: high byte from the last byte (R84, R114). -/
def State.frameCrc (s : State) (n : Nat) : BitVec 16 := s.rd (n - 1) ++ s.rd (n - 2)

/-- `CRC.GEN len` (R82). -/
def execCrcGen (len : Half) (s : State) : Host.Outcome State Fault Refusal :=
  checked (beyondBuf len.toNat 0) s ((s.crcOver len.toNat).setRes ((s.crcOver len.toNat).crcreg.setWidth 32))

/-- `CRC.APP len` (R83). -/
def execCrcApp (len : Half) (s : State) : Host.Outcome State Fault Refusal :=
  checked (beyondBuf len.toNat 2) s ((s.appendCrc len.toNat).setRes ((s.appendCrc len.toNat).crcreg.setWidth 32))

/-- `CRC.CHK len` (R84). -/
def execCrcChk (len : Half) (s : State) : Host.Outcome State Fault Refusal :=
  checked (len.toNat < 2 || beyondBuf len.toNat 0) s
    ((s.crcOver (len.toNat - 2)).setRes
      (if (s.crcOver (len.toNat - 2)).crcreg = s.frameCrc len.toNat then 1 else 0))

end Sys2Proof.Machine
end

