-- ==== Sys2Proof/Machine/FrameBuilder.lean ====
section
/-! DEFINITION. FrameBuilder (42_frame_builder R90 to R93). -/
namespace Sys2Proof.Machine

/-- The six header bytes every builder writes (R91): address, function code, start register, count. -/
def requestHeader (addr fc : Byte) (start count : Half) : List Byte :=
  [addr, fc] ++ bigEndian16 start ++ bigEndian16 count

/-- `BLD.RH addr, start, count` (R91). -/
def execBldRh (addr : Byte) (start count : Half) (s : State) : Host.Outcome State Fault Refusal :=
  checked false s ((s.wrBytes 0 (requestHeader addr 0x03#8 start count)).setRes 6)

/-- `BLD.RI addr, start, count` (R92). -/
def execBldRi (addr : Byte) (start count : Half) (s : State) : Host.Outcome State Fault Refusal :=
  checked false s ((s.wrBytes 0 (requestHeader addr 0x04#8 start count)).setRes 6)

/-- `BLD.WM addr, start, count` (R93): the header, then `byteCount = (2*C)[7:0]`. -/
def execBldWm (addr : Byte) (start count : Half) (s : State) : Host.Outcome State Fault Refusal :=
  checked (beyondBuf (7 + 2 * count.toNat) 2) s
    ((s.wrBytes 0 (requestHeader addr 0x10#8 start count ++ [.ofNat 8 (2 * count.toNat)])).setRes
      (.ofNat 32 (7 + 2 * count.toNat)))

end Sys2Proof.Machine
end

