-- ==== Sys2Proof/Machine/RegisterCodec.lean ====
section
/-! DEFINITION. RegisterCodec and buffer access (40_register_codec R70 to R75). -/
namespace Sys2Proof.Machine

/-- `STB off, byte` (R70). -/
def execStb (off byte : Byte) (s : State) : Host.Outcome State Fault Refusal :=
  checked false s (s.wr off.toNat byte)

/-- `LDB off` (R71). -/
def execLdb (off : Byte) (s : State) : Host.Outcome State Fault Refusal :=
  checked false s (s.setRes ((s.rd off.toNat).setWidth 32))

/-- `ENC16 off, value16` (R72). -/
def execEnc16 (off : Byte) (value : Half) (s : State) : Host.Outcome State Fault Refusal :=
  checked (beyondBuf off.toNat 2) s (s.wrBytes off.toNat (bigEndian16 value))

/-- `ENC32 off, value32` (R73). -/
def execEnc32 (off : Byte) (value : Word) (s : State) : Host.Outcome State Fault Refusal :=
  checked (beyondBuf off.toNat 4) s (s.wrBytes off.toNat (bigEndian32 value))

/-- `DEC16 off` (R74). -/
def execDec16 (off : Byte) (s : State) : Host.Outcome State Fault Refusal :=
  checked (beyondBuf off.toNat 2) s (s.setRes ((s.rd16 off.toNat).setWidth 32))

/-- `DEC32 off` (R75). -/
def execDec32 (off : Byte) (s : State) : Host.Outcome State Fault Refusal :=
  checked (beyondBuf off.toNat 4) s (s.setRes (s.rd32 off.toNat))

end Sys2Proof.Machine
end

