-- ==== Sys2Proof/Machine/Flags.lean ====
section
/-! DEFINITION. The flags, the encoding of `RESULT`, the ErrorMapper (43_transaction R116, R117) and the status read
port (10_state R18, R20). -/
namespace Sys2Proof.Machine

/-- R110: the exception flag after the second response byte, `BUF[1]`. -/
def exceptionFlag (excf : Bool) (byte1 : Byte) : Bool := excf || byte1.getLsbD 7

/-- R107: the expected length before the first response byte. -/
def initialExpLen (reqfc : Byte) : Count := if 4 < reqfc.toNat then 8 else 257

/-- R111: the expected length after the third response byte, `BUF[2]`. -/
def resolvedExpLen (excf : Bool) (explen : Count) (byte2 : Byte) : Count :=
  if excf then 5
  else if explen = 257 then 3 + byte2.setWidth 9 + 2
  else explen

/-- `KIND` of an outcome (R16). -/
def ModbusResult.kind : ModbusResult → BitVec 2
  | .ok => 0
  | .slaveException _ => 1
  | .sizeMismatch => 2
  | .crcMismatch => 3

/-- `CODE` of an outcome: zero unless `KIND = 1` (R16). -/
def ModbusResult.code : ModbusResult → Byte
  | .slaveException code => code
  | .ok => 0
  | .sizeMismatch => 0
  | .crcMismatch => 0

/-- An outcome in the encoding of `RESULT`: reserved 15:10, `KIND` 9:8, `CODE` 7:0 (R16). -/
def ModbusResult.toBits (r : ModbusResult) : BitVec 16 := 0#6 ++ r.kind ++ r.code

/-- `RESULT.KIND` (R16). -/
def resultKind (bits : BitVec 16) : BitVec 2 := bits.extractLsb' 8 2

/-- `RESULT.CODE` (R16). -/
def resultCode (bits : BitVec 16) : Byte := bits.extractLsb' 0 8

/-- The ErrorMapper (R117, R135): first the length check, then the CRC check, then the exception flag. -/
def errorMapper (sizeOk crcOk excf : Bool) (excode : Byte) : ModbusResult :=
  if !sizeOk then .sizeMismatch
  else if !crcOk then .crcMismatch
  else if excf then .slaveException excode
  else .ok

/-- The names of the exception codes (R117). -/
inductive ExceptionName where
  | illegalFunction | illegalDataAddress | illegalDataValue | slaveDeviceFailure
  | acknowledge | slaveBusy | negativeAcknowledge | memoryParityError
  deriving DecidableEq, Repr

/-- The name of an exception code; none for 0 and 9 to 255 (R117, U3). -/
def exceptionName (code : Byte) : Option ExceptionName :=
  match code.toNat with
  | 1 => some .illegalFunction
  | 2 => some .illegalDataAddress
  | 3 => some .illegalDataValue
  | 4 => some .slaveDeviceFailure
  | 5 => some .acknowledge
  | 6 => some .slaveBusy
  | 7 => some .negativeAcknowledge
  | 8 => some .memoryParityError
  | _ => none

/-- The event code of the trace port (R143). -/
def TraceEvent.code : TraceEvent → Nat
  | .txFrame _ => 1
  | .rxFrame _ => 2
  | .sizeErr => 3
  | .crcErr => 4

/-- `STATUS`: `BUSY` in bit 0, `EXCF` in bit 1, `VALID` in bit 2 (R18). -/
def State.statusBits (s : State) : Word :=
  (BitVec.ofBool s.valid ++ BitVec.ofBool s.excf ++ BitVec.ofBool s.busy).setWidth 32

/-- `ERR`: `CAUSE` in bits 3:0, `STICKY` in bit 7 (R18, R19). -/
def State.errBits (s : State) : Word := (BitVec.ofBool s.sticky ++ 0#3 ++ s.cause).setWidth 32

/-- The status read port (R18): exact while `BUSY = 0`; while `BUSY = 1` register 0 has bit 0 set and everything else
is a free value (R20, U5). That this value depends on the register and the tick counter alone, so that two reads in one
state agree, and so do reads in two runs at equal ticks, is the model's choice (DESIGN CHOICE, log 8). A read changes
nothing. -/
def State.statusRead (s : State) (reg : BitVec 3) : Word :=
  if s.busy then
    if reg = 0 then Config.busyRead s.tick 0 ||| 1 else Config.busyRead s.tick reg.toNat
  else if reg = 0 then s.statusBits
  else if reg = 1 then s.res
  else if reg = 2 then s.result.setWidth 32
  else if reg = 3 then s.rxcnt.setWidth 32
  else if reg = 4 then s.explen.setWidth 32
  else if reg = 5 then s.errBits
  else 0

end Sys2Proof.Machine
end

