-- ==== Sys2Proof/Machine/Transaction.lean ====
section
/-! DEFINITION. TransactionEngine, small steps (43_transaction R100 to R116): `XACT` is accepted by `execXact`, and each
later step while `BUSY = 1` is one engine step, by phase. What a step is: log 1. -/
namespace Sys2Proof.Machine

/-- R103: latch the operands and enter phase `TX`. -/
def State.acceptXact (s : State) (psize : Half) : State :=
  { s.retire with psz := psize.setWidth 8, reqfc := s.rd 1, txcnt := 0, valid := false, phase := .tx }

/-- `XACT psize` (R100): the operand check (R101), acceptance (R103), the request CRC (R104), and the trace event at the
start of step 2 (R105, R124). The rest are engine steps. -/
def execXact (psize : Half) (s : State) : Host.Outcome State Fault Refusal :=
  if psize.toNat < 2 || beyondBuf psize.toNat 2 then .next (s.raise .bounds)
  else
    let s' := (s.acceptXact psize).appendCrc psize.toNat
    .next (s'.emit (.txFrame (s'.rdFirst (psize.toNat + 2))))

/-- R105: hand over `BUF[TXCNT]`, marked last when `TXCNT = PSZ + 1`. -/
def State.txByte (s : State) : State :=
  { s.send (.txByte (s.rd s.txcnt.toNat) (s.txcnt.toNat == s.psz.toNat + 1)) with txcnt := s.txcnt + 1 }

/-- R107, step 3. -/
def State.enterRx (s : State) : State :=
  { s with explen := initialExpLen s.reqfc, rxcnt := 0, excf := false, phase := .rx }

/-- Is the transport ready in this step (R106)? -/
def State.txReadyNow (s : State) : Bool := s.txReady.head? != some false

/-- The ready line moves on to the next step that offers a byte. -/
def State.pastOffer (s : State) : State := { s with txReady := s.txReady.tail }

/-- A byte offered to the transport: transferred when the transport is ready (R106); a step in which it is not ready
changes nothing else. -/
def offerTx (s : State) : Host.Outcome State Fault Refusal :=
  if s.txcnt.toNat < Config.cap then
    if s.txReadyNow then .next s.pastOffer.txByte else .next s.pastOffer
  else .fault (.bufIndex s.txcnt.toNat)

/-- An engine step in phase `TX` (R105, R107). -/
def stepTx (s : State) : Host.Outcome State Fault Refusal :=
  if s.txcnt.toNat < s.psz.toNat + 2 then offerTx s else .next s.enterRx

/-- Leaving the receive loop (R109, R112). -/
def State.enterCheck (s : State) : State := { s with phase := .check }

/-- A received byte stored and counted (R109). -/
def State.storeRx (s : State) (b : Byte) : State := { s.wr s.rxcnt.toNat b with rxcnt := s.rxcnt + 1 }

/-- R110. -/
def State.secondByte (s : State) : State := { s with excf := exceptionFlag s.excf (s.rd 1) }

/-- R111. -/
def State.thirdByte (s : State) : State :=
  { s with
    excode := if s.excf then s.rd 2 else s.excode
    explen := resolvedExpLen s.excf s.explen (s.rd 2) }

/-- The rules that follow the count of bytes received (R109): R110 after the 2nd byte, R111 after the 3rd. -/
def State.afterRx (s : State) : State :=
  if s.rxcnt = 2 then s.secondByte else if s.rxcnt = 3 then s.thirdByte else s

/-- Does the transport answer the outstanding read request in this step (R108)? -/
def State.rxReadyNow (s : State) : Bool := s.rxReady.head? != some false

/-- The answer line moves on to the next step in which a read request is outstanding. -/
def State.pastWait (s : State) : State := { s with rxReady := s.rxReady.tail }

/-- A step in which a read request is outstanding (R108): an answered byte is stored and counted, a failed read ends the
loop (R109); a step without an answer changes nothing else. -/
def awaitRx (s : State) : Host.Outcome State Fault Refusal :=
  if s.rxcnt.toNat < Config.cap then
    if s.rxReadyNow then
      if (s.answerAt 0).ok then .next (s.pastWait.takeAnswer.storeRx (s.answerAt 0).byte).afterRx
      else .next s.pastWait.takeAnswer.enterCheck
    else .next s.pastWait
  else .fault (.bufIndex s.rxcnt.toNat)

/-- An engine step in phase `RX` (R109): await the outstanding answer, or test the loop's condition and issue the next
read request or leave the loop (R112). That a request and its answer are two steps is the model's choice (log 16). -/
def stepRx (s : State) : Host.Outcome State Fault Refusal :=
  if s.awaiting then awaitRx s
  else if s.rxcnt.toNat < s.explen.toNat ∧ s.rxcnt.toNat < Config.cap then .next s.request
  else .next s.enterCheck

/-- The trace event of an outcome (R113, R114), if it has one. -/
def errorTrace : ModbusResult → List TraceEvent
  | .sizeMismatch => [.sizeErr]
  | .crcMismatch => [.crcErr]
  | .ok => []
  | .slaveException _ => []

/-- R116: write the result; before it the error's trace event (R113, R114), with it `RX_FRAME` (R124). -/
def State.finish (s : State) (r : ModbusResult) : State :=
  { s with
    trace := s.trace ++ errorTrace r ++ [.rxFrame (s.rdFirst s.rxcnt.toNat)]
    result := r.toBits
    valid := true
    phase := .idle }

/-- An engine step in phase `CHECK`: steps 5 to 7 and the result (R113 to R116). -/
def stepCheck (s : State) : Host.Outcome State Fault Refusal :=
  let n := s.rxcnt.toNat
  if Config.cap < n then .fault (.bufIndex n)
  else if s.rxcnt ≠ s.explen then .next (s.finish (errorMapper false false s.excf s.excode))
  else if n < 2 then .fault (.bufIndex n)
  else
    let s' := s.crcOver (n - 2)
    .next (s'.finish (errorMapper true (s'.crcreg == s.frameCrc n) s.excf s.excode))

/-- One busy step of the model: status reads in the next state are unrelated to those before (log 8). -/
def State.countBusy (s : State) : State := { s with tick := s.tick + 1 }

/-- An engine step, by phase; in phase `IDLE` the engine does nothing (R12, R146). -/
def stepEngine (s : State) : Host.Outcome State Fault Refusal :=
  match s.phase with
  | .idle => .next s
  | .tx => stepTx s.countBusy
  | .rx => stepRx s.countBusy
  | .check => stepCheck s.countBusy

end Sys2Proof.Machine
end

