-- ==== Sys2Proof/Machine/Dispatch.lean ====
section
/-! DEFINITION. One arm per command: the meaning of an accepted command (30_encoding R51). -/
namespace Sys2Proof.Machine

def exec (i : Instr) (s : State) : Host.Outcome State Fault Refusal :=
  match i with
  | .stb off byte => Sys2Proof.Machine.execStb off byte s
  | .ldb off => Sys2Proof.Machine.execLdb off s
  | .enc16 off value => Sys2Proof.Machine.execEnc16 off value s
  | .enc32 off value => Sys2Proof.Machine.execEnc32 off value s
  | .dec16 off => Sys2Proof.Machine.execDec16 off s
  | .dec32 off => Sys2Proof.Machine.execDec32 off s
  | .crcGen len => Sys2Proof.Machine.execCrcGen len s
  | .crcApp len => Sys2Proof.Machine.execCrcApp len s
  | .crcChk len => Sys2Proof.Machine.execCrcChk len s
  | .bldRh addr start count => Sys2Proof.Machine.execBldRh addr start count s
  | .bldRi addr start count => Sys2Proof.Machine.execBldRi addr start count s
  | .bldWm addr start count => Sys2Proof.Machine.execBldWm addr start count s
  | .xact psize => Sys2Proof.Machine.execXact psize s

end Sys2Proof.Machine
end

