-- ==== Sys2Proof/Machine/Step.lean ====
section
/-! DEFINITION. One step of the block: reset if it is asserted (70_reset R150), else an engine step of a running `XACT`,
else acceptance and execution of the next pending command word (30_encoding R51), else nothing (60_exceptions R146). -/
namespace Sys2Proof.Machine

/-- "Accept and execute command `w`" (R51): a word that is no command raises its error (R54, R55). -/
def accept (w : CmdWord) (s : State) : Host.Outcome State Fault Refusal :=
  match decode w with
  | .cmd i => exec i s
  | .rsvd => .next (s.raise .rsvd)
  | .illop => .next (s.raise .illop)

/-- A step in which the block is ready (R51, R146). -/
def stepIdle (s : State) : Host.Outcome State Fault Refusal :=
  match s.cmds with
  | [] => .next s
  | w :: rest => accept w { s with cmds := rest }

/-- A step without reset. -/
def stepRunning (s : State) : Host.Outcome State Fault Refusal := if s.busy then stepEngine s else stepIdle s

/-- One step of the machine. -/
def step (s : State) : Host.Outcome State Fault Refusal :=
  if s.resetNow then .next s.pastReset.afterReset else stepRunning s.pastReset

/-- `s` with that command word presented at the command port, the block ready, and no reset in the coming step: the very
next step accepts and runs it (log 7). -/
def State.withFetchWord (s : State) (nbits w : Nat) : State :=
  { s with phase := .idle, cmds := tableWord nbits w :: s.cmds, resetIn := false :: s.resetIn }

end Sys2Proof.Machine
end

