-- ==== Sys2Proof/Machine/Transact.lean ====
section
/-! DEFINITION. The whole of `XACT` as one function of the buffer and the transport's answers (43_transaction R122), on
plain lists and numbers. The machine runs the small steps of Machine/Transaction.lean; that the two agree is a statement
about the model. -/
namespace Sys2Proof.Machine

/-- The receive loop's variables in R122: `buf`, `n`, `exp`, `excf`, `excode` and `i`. -/
structure RxLoop where
  buf : List Byte
  n : Nat
  exp : Nat
  excf : Bool
  excode : Byte
  used : Nat
  deriving DecidableEq, Repr

/-- What R122 returns. -/
structure Transacted where
  buf : List Byte
  tx : List Byte
  result : ModbusResult
  rxcnt : Nat
  explen : Nat
  excf : Bool
  used : Nat
  deriving DecidableEq, Repr

/-- A byte `b` received: stored, counted, and the rules after the 2nd and the 3rd byte (R122). -/
def RxLoop.receive (r : RxLoop) (b : Byte) : RxLoop :=
  let r1 := { r with buf := r.buf.set r.n b, n := r.n + 1 }
  if r1.n = 2 then { r1 with excf := r1.excf || (r1.buf.getD 1 0).getLsbD 7 }
  else if r1.n = 3 then
    if r1.excf then { r1 with excode := r1.buf.getD 2 0, exp := 5 }
    else if r1.exp = 257 then { r1 with exp := 3 + (r1.buf.getD 2 0).toNat + 2 }
    else r1
  else r1

/-- The loop `while n < exp and n < 256` of R122, at most `fuel` turns; `ans` is the sequence of answers. -/
def rxLoop (ans : Nat → RxAnswer) : Nat → RxLoop → RxLoop
  | 0, r => r
  | fuel + 1, r =>
    if r.n < r.exp ∧ r.n < Config.cap then
      if (ans r.used).ok then rxLoop ans fuel { r.receive (ans r.used).byte with used := r.used + 1 }
      else { r with used := r.used + 1 }
    else r

/-- R122's `buf` after step 1: the request with its CRC. -/
def withRequestCrc (buf : List Byte) (psz : Nat) : List Byte :=
  let c := crc16 (buf.take psz)
  (buf.set psz (loByte c)).set (psz + 1) (hiByte c)

/-- R122's `transact(buf, psz, ans)`. -/
def transact (buf : List Byte) (psz : Nat) (ans : Nat → RxAnswer) : Transacted :=
  let buf1 := withRequestCrc buf psz
  let fc := buf1.getD 1 0
  let r := rxLoop ans 256
    { buf := buf1, n := 0, exp := if 4 < fc.toNat then 8 else 257, excf := false, excode := 0, used := 0 }
  let received := r.buf.getD (r.n - 1) 0 ++ r.buf.getD (r.n - 2) 0
  let result : ModbusResult :=
    if r.n ≠ r.exp then .sizeMismatch
    else if received ≠ crc16 (r.buf.take (r.n - 2)) then .crcMismatch
    else if r.excf then .slaveException r.excode
    else .ok
  { buf := r.buf, tx := buf1.take (psz + 2), result := result, rxcnt := r.n, explen := r.exp, excf := r.excf,
    used := r.used }

end Sys2Proof.Machine
end

