-- ==== Sys2Proof/Safety.lean ====
section
/-! DEFINITION. The terms the statements use: the invariant of the block, what a run is, what one state keeps of
another, and the preconditions the spec names for claims (93_implementation_defined U1, U2). -/
namespace Sys2Proof.Machine

/-- The invariant of the block: what holds at reset and in every state a run reaches. -/
structure State.Inv (s : State) : Prop where
  /-- `BUF`'s list has its one form, indices below `CAP` (R30). -/
  buf_wf : Memory.wf s.buf
  /-- `RXCNT <= CAP` always (R12). -/
  rxcnt_le_cap : s.rxcnt.toNat ≤ Config.cap
  /-- `TXCNT <= CAP` always (R12). -/
  txcnt_le_cap : s.txcnt.toNat ≤ Config.cap
  /-- A running `XACT` has passed R101: `2 <= PSZ` and `PSZ + 2 <= CAP`. -/
  psz_range : s.phase ≠ .idle → 2 ≤ s.psz.toNat ∧ s.psz.toNat + 2 ≤ Config.cap
  /-- In phase `TX` at most `PSZ + 2` bytes are handed over (R105). -/
  tx_progress : s.phase = .tx → s.txcnt.toNat ≤ s.psz.toNat + 2
  /-- Reception starts after the whole frame is handed over (R44, R107). -/
  tx_before_rx : s.phase = .rx ∨ s.phase = .check → s.txcnt.toNat = s.psz.toNat + 2
  /-- `EXPLEN` is 5 to 260 once set (R17). -/
  explen_range : s.phase = .rx ∨ s.phase = .check → 5 ≤ s.explen.toNat ∧ s.explen.toNat ≤ 260
  /-- The loop stops at `EXPLEN` (R112). -/
  rxcnt_le_explen : s.phase = .rx ∨ s.phase = .check → s.rxcnt.toNat ≤ s.explen.toNat
  /-- Before the third byte `EXPLEN` is the length of step 3 (R107, R110). -/
  explen_unresolved : s.phase = .rx ∨ s.phase = .check → s.rxcnt.toNat < 3 → s.explen.toNat = 8 ∨ s.explen.toNat = 257
  /-- Before the second byte the response is not flagged (R107, R110). -/
  excf_unset : s.phase = .rx ∨ s.phase = .check → s.rxcnt.toNat < 2 → s.excf = false
  /-- A flagged response has the length of an exception response (R111). -/
  excf_length : s.phase = .rx ∨ s.phase = .check → 3 ≤ s.rxcnt.toNat → s.excf = true → s.explen.toNat = 5
  /-- A read request is outstanding only in the receive loop, which issues none at `EXPLEN` or `CAP` (R109, R112). -/
  awaiting_rx : s.awaiting = true → s.phase = .rx ∧ s.rxcnt.toNat < s.explen.toNat ∧ s.rxcnt.toNat < Config.cap
  /-- `RESULT[15:10]` read 0 (R16). -/
  result_reserved : s.result.toNat < 1024
  /-- `CODE` is 0 unless `KIND = 1` (R16). -/
  result_code : resultKind s.result ≠ 1 → resultCode s.result = 0
  /-- `VALID` is cleared when an `XACT` is accepted (R15). -/
  valid_idle : s.valid = true → s.phase = .idle
  /-- `KIND = 2` exactly when the counts differ (R134). -/
  size_outcome : s.valid = true → (resultKind s.result = 2 ↔ s.rxcnt ≠ s.explen)
  /-- `KIND = 1` only for a flagged response of 5 bytes (R134). -/
  exception_outcome : s.valid = true → resultKind s.result = 1 → s.excf = true ∧ s.rxcnt.toNat = 5
  /-- "The mapper never produces `Ok` from an exception response" (R117). -/
  ok_outcome : s.valid = true → resultKind s.result = 0 → s.excf = false
  /-- Causes 4 to 15 are never produced (R130). -/
  cause_range : s.cause.toNat ≤ 3
  /-- A recorded cause is recorded in `STICKY` too (R131). -/
  cause_sticky : s.cause ≠ 0 → s.sticky = true
  /-- An `XACT` sets `CAUSE` to 0 when it is accepted (R133). -/
  busy_cause : s.phase ≠ .idle → s.cause = 0

/-- Every byte of `BUF` reads as before. -/
def SameBuf (s t : State) : Prop := ∀ a, t.rd a = s.rd a

/-- Every byte of `BUF` outside `base .. base + n - 1` reads as before. -/
def SameBufOutside (base n : Nat) (s t : State) : Prop := ∀ a, a < base ∨ base + n ≤ a → t.rd a = s.rd a

/-- What only `XACT` writes (R14 to R17, R23, R108) is as before. -/
def SameTransaction (s t : State) : Prop :=
  t.phase = s.phase ∧ t.excf = s.excf ∧ t.valid = s.valid ∧ t.result = s.result ∧ t.rxcnt = s.rxcnt ∧
  t.explen = s.explen ∧ t.reqfc = s.reqfc ∧ t.psz = s.psz ∧ t.txcnt = s.txcnt ∧ t.excode = s.excode ∧
  t.awaiting = s.awaiting

/-- The ports and the model's own fields are as before. -/
def SamePorts (s t : State) : Prop :=
  t.cmds = s.cmds ∧ t.txReady = s.txReady ∧ t.rxAns = s.rxAns ∧ t.rxReady = s.rxReady ∧ t.resetIn = s.resetIn ∧
  t.bus = s.bus ∧ t.trace = s.trace ∧ t.timeoutMs = s.timeoutMs ∧ t.epoch = s.epoch ∧ t.reads = s.reads ∧ t.tick = s.tick

/-- `k` steps from `s` end in `t`, none of them a stop. -/
def RunsTo (k : Nat) (s t : State) : Prop := core.run k s = .next t

/-- Reset is not asserted in any coming step. -/
def State.NoReset (s : State) : Prop := ∀ level ∈ s.resetIn, level = false

/-- The block is ready, reset is not asserted, and `w` is the word presented, `rest` those behind it (R51). -/
def State.Presents (s : State) (w : CmdWord) (rest : List CmdWord) : Prop :=
  s.phase = .idle ∧ s.resetNow = false ∧ s.cmds = w :: rest

/-- `s` after the word presented is taken from the port. -/
def State.taken (s : State) (rest : List CmdWord) : State := { s.pastReset with cmds := rest }

/-- The named precondition U1: the request has one of the three supported function codes (R2, R102). -/
def State.SupportedFC (s : State) : Prop := s.rd 1 = 0x03 ∨ s.rd 1 = 0x04 ∨ s.rd 1 = 0x10

/-- The named precondition U2: the request's slave address is no broadcast (R4, R90). -/
def State.UnicastAddr (s : State) : Prop := s.rd 0 ≠ 0

/-- R53's thirteen `OP` values. -/
def opcodeValues : List Byte :=
  [0x01, 0x02, 0x03, 0x04, 0x05, 0x06, 0x10, 0x11, 0x12, 0x20, 0x21, 0x22, 0x30]

/-- R36's table on the raw fields of a command word: the operand is outside the limit of the word's opcode. -/
def WordBeyondLimit (w : CmdWord) : Prop :=
  let op := (fieldOp w).toNat
  let a := (fieldA w).toNat
  let c := (fieldC w).toNat
  ((op = 0x03 ∨ op = 0x05) ∧ a = 255) ∨ ((op = 0x04 ∨ op = 0x06) ∧ 253 ≤ a) ∨ (op = 0x10 ∧ 256 < c) ∨
  (op = 0x11 ∧ 255 ≤ c) ∨ (op = 0x12 ∧ (c < 2 ∨ 256 < c)) ∨ (op = 0x22 ∧ 124 ≤ c) ∨ (op = 0x30 ∧ (c ≤ 1 ∨ 255 ≤ c))

/-- The transmitted frame as the transport sees it: the bytes in order, the final one marked `last` (R105, R106). -/
def txEvents (frame : List Byte) : List TransportEvent :=
  frame.mapIdx fun k b => .txByte b (k + 1 == frame.length)

/-- One shift of R80's register, on numbers: halve it, and exclusive-or 0xA001 if the bit shifted out was 1. -/
def crcShiftNat (c : Nat) : Nat := if c % 2 = 1 then c / 2 ^^^ 0xA001 else c / 2

end Sys2Proof.Machine
end

