-- ==== Sys2Proof/Certificates/Slice0/Obligations.lean ====
section
/-! DEFINITION. The statements about the model, for the provers. -/
open Sys2Proof Sys2Proof.Machine

/-! ### Encoding -/

/-- Decoding an encoded command gives it back, every operand at every value (30_encoding R50, R52, R53, R56). -/
def Obligations.DecodeInvertsEncode : Prop := ∀ i : Instr, decode (encode i) = .cmd i

/-- A word that decodes to a command is the word of that command: no bit of the word is dropped (R50, R52). -/
def Obligations.EncodeInvertsDecode : Prop := ∀ (w : CmdWord) (i : Instr), decode w = .cmd i → encode i = w

/-- Every word is a row of the opcode map, `RSVD` or `ILLOP`, by R53's masks and opcode values, and an unknown opcode
raises `ILLOP` whatever its other fields hold (R53, R54, R55, R131). -/
def Obligations.EveryWordIsClassified : Prop :=
  (∀ w : CmdWord,
    (decode w = .illop ↔ fieldOp w ∉ opcodeValues) ∧
    ((∃ i, decode w = .cmd i) ↔ ∃ r ∈ opcodeRows, r.covers w = true) ∧
    (decode w = .rsvd ↔ fieldOp w ∈ opcodeValues ∧ ∀ r ∈ opcodeRows, r.covers w = false)) ∧
  (∀ (s : State) (w : CmdWord) (rest : List CmdWord), s.Presents w rest → fieldOp w ∉ opcodeValues →
    step s = .next { s.taken rest with cause := 1, sticky := true })

/-- R54: a 1 bit in a must-be-zero field of a known opcode's format raises `RSVD` and has no other effect. -/
def Obligations.ReservedBitRaisesRsvd : Prop :=
  ∀ (s : State) (w : CmdWord) (rest : List CmdWord) (r : OpRow), s.Presents w rest → r ∈ opcodeRows →
    fieldOp w = fieldOp r.pattern → r.covers w = false →
    step s = .next { s.taken rest with cause := 2, sticky := true }

/-- Words the spec prints decode to the commands it prints them for (R70 to R75, R82 to R84, R91 to R93; 95_test_vectors
P1, P2). -/
def Obligations.PrintedWordsDecode : Prop :=
  decode 0x010600000004#48 = .cmd (.stb 6#8 4#8) ∧ decode 0x020200000000#48 = .cmd (.ldb 2#8) ∧
  decode 0x030700008080#48 = .cmd (.enc16 7#8 0x8080#16) ∧ decode 0x0407DEADBEEF#48 = .cmd (.enc32 7#8 0xDEADBEEF#32) ∧
  decode 0x050300000000#48 = .cmd (.dec16 3#8) ∧ decode 0x060300000000#48 = .cmd (.dec32 3#8) ∧
  decode 0x100000000006#48 = .cmd (.crcGen 6#16) ∧ decode 0x110000000006#48 = .cmd (.crcApp 6#16) ∧
  decode 0x120000000007#48 = .cmd (.crcChk 7#16) ∧ decode 0x201000110001#48 = .cmd (.bldRh 0x10#8 17#16 1#16) ∧
  decode 0x211000110001#48 = .cmd (.bldRi 0x10#8 17#16 1#16) ∧
  decode 0x221000210002#48 = .cmd (.bldWm 0x10#8 33#16 2#16) ∧ decode 0x30000000000B#48 = .cmd (.xact 11#16)

/-- The five pseudo-instructions' expansions, and the rejection of one whose computed field does not fit (R66). That
`STREG` also rejects a value operand of 65536 or more, which is no computed field, is the model's choice (log 20). -/
def Obligations.PseudoInstructionsExpand : Prop :=
  assemble ⟨.xactR, []⟩ = some (.xact 6#16) ∧
  (∀ count : Nat, assemble ⟨.xactW, [count]⟩ =
    if 7 + 2 * count < 65536 then some (.xact (.ofNat 16 (7 + 2 * count))) else none) ∧
  (∀ k value : Nat, assemble ⟨.streg, [k, value]⟩ =
    if 7 + 2 * k < 256 ∧ value < 65536 then some (.enc16 (.ofNat 8 (7 + 2 * k)) (.ofNat 16 value)) else none) ∧
  (∀ k : Nat, assemble ⟨.ldreg, [k]⟩ = if 3 + 2 * k < 256 then some (.dec16 (.ofNat 8 (3 + 2 * k))) else none) ∧
  (∀ k : Nat, assemble ⟨.ldreg32, [k]⟩ = if 3 + 2 * k < 256 then some (.dec32 (.ofNat 8 (3 + 2 * k))) else none)

/-! ### The command port, reset, the whole machine -/

/-- A step in which the block is ready and a command word is presented takes it from the port and runs the command
(R51). -/
def Obligations.StepRunsDecodedCommand : Prop :=
  ∀ (s : State) (w : CmdWord) (rest : List CmdWord) (i : Instr), s.Presents w rest → decode w = .cmd i →
    step s = exec i (s.taken rest)

/-- A command presented while `BUSY = 1` has no effect and stays pending: the step is the same whatever is pending,
and what is pending stays (R13, R51). Both steps meet the same transport, free answers included (log 3). -/
def Obligations.BusyStepIgnoresPendingCommands : Prop :=
  ∀ (s t : State) (pending : List CmdWord), s.phase ≠ .idle → s.resetNow = false → step s = .next t →
    step { s with cmds := pending } = .next { t with cmds := pending }

/-- R146: between commands the block is idle with all state retained. -/
def Obligations.IdleStepRetainsState : Prop :=
  ∀ s : State, s.phase = .idle → s.resetNow = false → s.cmds = [] → step s = .next { s with resetIn := s.resetIn.tail }

/-- What reset leaves: in the state after reset (R25), and from any state in a step in which reset is asserted (R150).
That such a step leaves the transport and trace logs as they were is the model's choice (logs 6, 12, 13, 19). -/
def Obligations.ResetValues : Prop :=
  (State.reset.phase = .idle ∧ State.reset.busy = false ∧ State.reset.excf = false ∧ State.reset.valid = false ∧
    State.reset.res = 0 ∧ State.reset.result = 0 ∧ State.reset.rxcnt = 0 ∧ State.reset.explen = 0 ∧
    State.reset.cause = 0 ∧ State.reset.sticky = false ∧ State.reset.awaiting = false ∧ State.reset.bus = [] ∧
    State.reset.trace = []) ∧
  ∀ s : State, s.resetNow = true → ∃ t, step s = .next t ∧
    t.phase = .idle ∧ t.busy = false ∧ t.excf = false ∧ t.valid = false ∧ t.res = 0 ∧ t.result = 0 ∧ t.rxcnt = 0 ∧
    t.explen = 0 ∧ t.cause = 0 ∧ t.sticky = false ∧ t.awaiting = false ∧ t.bus = s.bus ∧ t.trace = s.trace

/-- Reset during an `XACT` abandons it with no result, bytes sent stay sent, an outstanding read request is forgotten,
and the answers stay in the transport for the next one; nothing else cuts a transaction short: a step without reset that
ends it writes its result (R151). That nothing is sent, traced or answered in the reset step itself, and that the listed
answers are kept, is the model's choice (logs 6, 12, 13, 19). -/
def Obligations.OnlyResetAbandonsXact : Prop :=
  (∀ s : State, s.phase ≠ .idle → s.resetNow = true → ∃ t, step s = .next t ∧ t.phase = .idle ∧ t.valid = false ∧
    t.bus = s.bus ∧ t.trace = s.trace ∧ t.awaiting = false ∧ t.rxAns = s.rxAns ∧ ∀ k, t.answerAt k = s.answerAt k) ∧
  ∀ s t : State, s.phase ≠ .idle → s.resetNow = false → step s = .next t → t.phase = .idle →
    s.phase = .check ∧ t.valid = true

/-- The state after reset meets the invariant. -/
def Obligations.ResetMeetsInvariant : Prop := State.reset.Inv

/-- Every step from a state with the invariant keeps it (R12, R16, R17, R30, R112, R117, R130, R133, R134). -/
def Obligations.StepKeepsInvariant : Prop := ∀ s t : State, s.Inv → step s = .next t → t.Inv

/-- From a state with the invariant no run stops: no fault, no refusal, ever. -/
def Obligations.RunsNeverStop : Prop := ∀ (s : State) (k : Nat), s.Inv → ∃ t, RunsTo k s t ∧ t.Inv

/-- The step of a block that is ready writes none of the registers only `XACT` writes, but for `VALID`, which its
acceptance clears, and a step of a running `XACT` writes none of `RES`, `ERR` (R11, R14, R15, R16, R17, R19). -/
def Obligations.RegistersHaveTheirWriters : Prop :=
  (∀ s t : State, s.phase = .idle → s.resetNow = false → step s = .next t →
    t.result = s.result ∧ t.rxcnt = s.rxcnt ∧ t.explen = s.explen ∧ t.excf = s.excf ∧ t.excode = s.excode ∧
    (t.phase = .idle → t.valid = s.valid) ∧ (t.phase ≠ .idle → t.valid = false ∧ t.res = s.res)) ∧
  ∀ s t : State, s.phase ≠ .idle → s.resetNow = false → step s = .next t →
    t.res = s.res ∧ t.cause = s.cause ∧ t.sticky = s.sticky ∧ (t.phase ≠ .idle → t.valid = s.valid ∧ t.result = s.result)

/-- R143: no trace event changes any state of the block: with any other trace log the step is the same. Both
steps meet the same transport and the same free reset contents (logs 2, 3: the model's choice). -/
def Obligations.TraceChangesNothing : Prop :=
  ∀ (s t : State) (log : List TraceEvent), step s = .next t →
    ∃ log', step { s with trace := log } = .next { t with trace := log' }

/-- The status read port: exact while `BUSY = 0` (R18), its reset column, and while `BUSY = 1` bit 0 of register 0 is 1
(R20). -/
def Obligations.StatusReadPort : Prop :=
  (∀ s : State, s.phase = .idle →
    (s.statusRead 0).toNat = 2 * s.excf.toNat + 4 * s.valid.toNat ∧ s.statusRead 1 = s.res ∧
    (s.statusRead 2).toNat = s.result.toNat ∧ (s.statusRead 3).toNat = s.rxcnt.toNat ∧
    (s.statusRead 4).toNat = s.explen.toNat ∧ (s.statusRead 5).toNat = s.cause.toNat + 128 * s.sticky.toNat ∧
    s.statusRead 6 = 0 ∧ s.statusRead 7 = 0) ∧
  (∀ reg : BitVec 3, State.reset.statusRead reg = 0) ∧
  (∀ s : State, s.phase ≠ .idle → (s.statusRead 0).getLsbD 0 = true)

/-! ### RegisterCodec and buffer access -/

/-- `STB` completes at every offset, with the byte stored (R70). -/
def Obligations.StbStoresByte : Prop :=
  ∀ (s : State) (off byte : Byte), ∃ t, exec (.stb off byte) s = .next t ∧ t.rd off.toNat = byte ∧
    SameBufOutside off.toNat 1 s t ∧ t.cause = 0 ∧ t.sticky = s.sticky

/-- `LDB` completes at every offset, the byte zero-extended in `RES` (R71). -/
def Obligations.LdbLoadsByte : Prop :=
  ∀ (s : State) (off : Byte), ∃ t, exec (.ldb off) s = .next t ∧ t.res.toNat = (s.rd off.toNat).toNat ∧
    t.cause = 0 ∧ t.sticky = s.sticky

/-- `ENC16` completes at every offset but 255, the high byte first (R72). -/
def Obligations.Enc16StoresBigEndian : Prop :=
  ∀ (s : State) (off : Byte) (value : Half), off.toNat ≠ 255 → ∃ t, exec (.enc16 off value) s = .next t ∧
    (t.rd off.toNat).toNat = value.toNat / 256 ∧ (t.rd (off.toNat + 1)).toNat = value.toNat % 256 ∧
    t.cause = 0 ∧ t.sticky = s.sticky

/-- `ENC32` completes at offsets 0 to 252, the most significant byte first, and leaves what `ENC16 A, B` and then
`ENC16 A+2, C` leave (R73). -/
def Obligations.Enc32StoresBigEndian : Prop :=
  ∀ (s : State) (off : Byte) (value : Word), off.toNat < 253 → ∃ t, exec (.enc32 off value) s = .next t ∧
    (t.rd off.toNat).toNat = value.toNat / 2 ^ 24 ∧ (t.rd (off.toNat + 1)).toNat = value.toNat / 2 ^ 16 % 256 ∧
    (t.rd (off.toNat + 2)).toNat = value.toNat / 2 ^ 8 % 256 ∧ (t.rd (off.toNat + 3)).toNat = value.toNat % 256 ∧
    t.cause = 0 ∧ t.sticky = s.sticky ∧
    ∃ u, exec (.enc16 off (.ofNat 16 (value.toNat / 65536))) s = .next u ∧
      exec (.enc16 (off + 2) (.ofNat 16 (value.toNat % 65536))) u = .next t

/-- `DEC16` completes at every offset but 255, with `BUF[A] * 256 + BUF[A + 1]` in `RES` (R74). -/
def Obligations.Dec16ReadsBigEndian : Prop :=
  ∀ (s : State) (off : Byte), off.toNat ≠ 255 → ∃ t, exec (.dec16 off) s = .next t ∧
    t.res.toNat = (s.rd off.toNat).toNat * 256 + (s.rd (off.toNat + 1)).toNat ∧ t.cause = 0 ∧ t.sticky = s.sticky

/-- `DEC32` completes at offsets 0 to 252, with the four bytes, most significant first, in `RES` (R75). -/
def Obligations.Dec32ReadsBigEndian : Prop :=
  ∀ (s : State) (off : Byte), off.toNat < 253 → ∃ t, exec (.dec32 off) s = .next t ∧
    t.res.toNat = (s.rd off.toNat).toNat * 2 ^ 24 + (s.rd (off.toNat + 1)).toNat * 2 ^ 16 +
      (s.rd (off.toNat + 2)).toNat * 2 ^ 8 + (s.rd (off.toNat + 3)).toNat ∧ t.cause = 0 ∧ t.sticky = s.sticky

/-- The codec laws (R76): what an encoder stored a decoder reads, byte by byte too, and the decoders depend on nothing
but the bytes they name. -/
def Obligations.CodecRoundTrips : Prop :=
  (∀ (s t : State) (off : Byte) (v : Half), off.toNat ≠ 255 → exec (.enc16 off v) s = .next t →
    (∃ u, exec (.dec16 off) t = .next u ∧ u.res.toNat = v.toNat) ∧
    (∃ u, exec (.ldb off) t = .next u ∧ u.res.toNat = v.toNat / 256) ∧
    (∃ u, exec (.ldb (off + 1)) t = .next u ∧ u.res.toNat = v.toNat % 256)) ∧
  (∀ (s t : State) (off : Byte) (w : Word), off.toNat < 253 → exec (.enc32 off w) s = .next t →
    ∃ u, exec (.dec32 off) t = .next u ∧ u.res = w) ∧
  (∀ (s s' t t' : State) (off : Byte), off.toNat ≠ 255 → s.rd off.toNat = s'.rd off.toNat →
    s.rd (off.toNat + 1) = s'.rd (off.toNat + 1) → exec (.dec16 off) s = .next t → exec (.dec16 off) s' = .next t' →
    t.res = t'.res) ∧
  (∀ (s s' t t' : State) (off : Byte), off.toNat < 253 → (∀ k, k < 4 → s.rd (off.toNat + k) = s'.rd (off.toNat + k)) →
    exec (.dec32 off) s = .next t → exec (.dec32 off) s' = .next t' → t.res = t'.res)

/-- A mixed-width access sees plain bytes (R34): the 16-bit reads at `o`, `o + 1`, `o + 2` of a 32-bit value stored at
`o`, its byte reads, and `DEC32` from `DEC16`. -/
def Obligations.MixedWidthReads : Prop :=
  (∀ (s t : State) (off : Byte) (w : Word), off.toNat < 253 → exec (.enc32 off w) s = .next t →
    (∃ u, exec (.dec16 off) t = .next u ∧ u.res.toNat = w.toNat / 2 ^ 16) ∧
    (∃ u, exec (.dec16 (off + 1)) t = .next u ∧ u.res.toNat = w.toNat / 2 ^ 8 % 2 ^ 16) ∧
    (∃ u, exec (.dec16 (off + 2)) t = .next u ∧ u.res.toNat = w.toNat % 2 ^ 16) ∧
    (∀ k, k < 4 → ∃ u, exec (.ldb (off + .ofNat 8 k)) t = .next u ∧ u.res.toNat = w.toNat / 2 ^ (24 - 8 * k) % 256)) ∧
  (∀ (s : State) (off : Byte), off.toNat < 253 → ∃ t hi lo, exec (.dec32 off) s = .next t ∧
    exec (.dec16 off) s = .next hi ∧ exec (.dec16 (off + 2)) s = .next lo ∧
    t.res.toNat = hi.res.toNat * 65536 + lo.res.toNat)

/-! ### CRC16Engine -/

/-- The fixed points and the register trace of R81. -/
def Obligations.CrcFixedPoints : Prop :=
  crc16 [] = 0xFFFF#16 ∧ crc16 [0x00#8] = 0x40BF#16 ∧ crc16 [0x01#8] = 0x807E#16 ∧ crc16 [0xFF#8] = 0x00FF#16 ∧
  crc16 [0x31#8, 0x32#8, 0x33#8, 0x34#8, 0x35#8, 0x36#8, 0x37#8, 0x38#8, 0x39#8] = 0x4B37#16 ∧
  crc16 [0x01#8, 0x03#8, 0x00#8, 0x00#8, 0x00#8, 0x0A#8] = 0xCDC5#16 ∧
  (List.range 9).map (fun k => crcShifts k (0xFFFF#16 ^^^ 0x0001#16)) =
    [0xFFFE#16, 0x7FFF#16, 0x9FFE#16, 0x4FFF#16, 0x87FE#16, 0x43FF#16, 0x81FE#16, 0x40FF#16, 0x807E#16]

/-- `crc16` is R80's procedure, written on numbers: start at 0xFFFF, each byte exclusive-or'ed into the low 8 bits and
followed by eight shifts (R80, which the spec supplies from general knowledge; log 15). -/
def Obligations.CrcFollowsProcedure : Prop :=
  (crc16 []).toNat = 0xFFFF ∧
  ∀ (bytes : List Byte) (b : Byte), (crc16 (bytes ++ [b])).toNat = crcShiftNat^[8] ((crc16 bytes).toNat ^^^ b.toNat)

/-- `CRC.GEN` completes for lengths 0 to 256, with the CRC of `BUF[0..C)` in `RES` (R82). -/
def Obligations.CrcGenGivesCrc : Prop :=
  ∀ (s : State) (len : Half), len.toNat ≤ 256 → ∃ t, exec (.crcGen len) s = .next t ∧
    t.res.toNat = (crc16 ((List.range len.toNat).map s.rd)).toNat ∧ t.cause = 0 ∧ t.sticky = s.sticky

/-- `CRC.APP` completes for lengths 0 to 254: the CRC of `BUF[0..C)` in `RES`, and at `BUF[C]`, `BUF[C + 1]` low byte
first (R83). -/
def Obligations.CrcAppAppendsCrc : Prop :=
  ∀ (s : State) (len : Half), len.toNat < 255 → ∃ t, exec (.crcApp len) s = .next t ∧
    t.res.toNat = (crc16 ((List.range len.toNat).map s.rd)).toNat ∧
    (t.rd len.toNat).toNat = t.res.toNat % 256 ∧ (t.rd (len.toNat + 1)).toNat = t.res.toNat / 256 ∧
    t.cause = 0 ∧ t.sticky = s.sticky

/-- `CRC.CHK` completes for lengths 2 to 256: `RES` is 1 when the last two bytes, the last one more significant, are the
CRC of those before, else 0 (R84). -/
def Obligations.CrcChkComparesCrc : Prop :=
  ∀ (s : State) (len : Half), 2 ≤ len.toNat → len.toNat ≤ 256 → ∃ t, exec (.crcChk len) s = .next t ∧
    t.res = (if (crc16 ((List.range (len.toNat - 2)).map s.rd)).toNat =
      (s.rd (len.toNat - 1)).toNat * 256 + (s.rd (len.toNat - 2)).toNat then 1 else 0) ∧
    t.cause = 0 ∧ t.sticky = s.sticky

/-- Appending the CRC and checking the extended buffer succeeds (R85, first clause). -/
def Obligations.AppendedCrcVerifies : Prop :=
  ∀ (s : State) (n : Half), n.toNat + 2 ≤ 256 → ∃ t u, exec (.crcApp n) s = .next t ∧
    exec (.crcChk (n + 2)) t = .next u ∧ u.res = 1

/-- One bit of payload or checksum inverted between the two makes the check fail (R85, second clause). -/
def Obligations.SingleBitErrorIsDetected : Prop :=
  ∀ (s t : State) (n : Half) (at_ bit : Nat), n.toNat + 2 ≤ 256 → exec (.crcApp n) s = .next t → at_ < n.toNat + 2 →
    bit < 8 → ∃ u, exec (.crcChk (n + 2)) (t.wr at_ (t.rd at_ ^^^ (1#8 <<< bit))) = .next u ∧ u.res = 0

/-- The CRC of a frame with its own CRC, low byte first, is 0 (R85, the consequence it names). -/
def Obligations.CrcResidueIsZero : Prop :=
  ∀ bytes : List Byte, crc16 (bytes ++ littleEndian16 (crc16 bytes)) = 0

/-! ### FrameBuilder -/

/-- `BLD.RH` and `BLD.RI` complete on all operands, with the six header bytes and `RES = 6` (R90, R91, R92). -/
def Obligations.ReadBuildersWriteHeader : Prop :=
  ∀ (s : State) (addr : Byte) (start count : Half),
    (∃ t, exec (.bldRh addr start count) s = .next t ∧ t.rd 1 = 0x03#8 ∧ t.rd 0 = addr ∧
      (t.rd 2).toNat = start.toNat / 256 ∧ (t.rd 3).toNat = start.toNat % 256 ∧ (t.rd 4).toNat = count.toNat / 256 ∧
      (t.rd 5).toNat = count.toNat % 256 ∧ t.res = 6 ∧ t.cause = 0 ∧ t.sticky = s.sticky) ∧
    (∃ t, exec (.bldRi addr start count) s = .next t ∧ t.rd 1 = 0x04#8 ∧ t.rd 0 = addr ∧
      (t.rd 2).toNat = start.toNat / 256 ∧ (t.rd 3).toNat = start.toNat % 256 ∧ (t.rd 4).toNat = count.toNat / 256 ∧
      (t.rd 5).toNat = count.toNat % 256 ∧ t.res = 6 ∧ t.cause = 0 ∧ t.sticky = s.sticky)

/-- `BLD.WM` completes for counts 0 to 123, with the seven header bytes and `RES = 7 + 2*C` (R93). -/
def Obligations.WriteBuilderWritesHeader : Prop :=
  ∀ (s : State) (addr : Byte) (start count : Half), count.toNat < 124 →
    ∃ t, exec (.bldWm addr start count) s = .next t ∧ t.rd 0 = addr ∧ t.rd 1 = 0x10#8 ∧
      (t.rd 2).toNat = start.toNat / 256 ∧ (t.rd 3).toNat = start.toNat % 256 ∧ t.rd 4 = 0 ∧
      (t.rd 5).toNat = count.toNat ∧ (t.rd 6).toNat = 2 * count.toNat ∧ t.res.toNat = 7 + 2 * count.toNat ∧
      t.cause = 0 ∧ t.sticky = s.sticky

/-! ### Frames and command errors -/

/-- The commands that store nothing leave everything but `RES` and `ERR` (the CRC commands also `CRCREG`) as it was
(R71, R74, R75, R82, R84, R87). -/
def Obligations.ReadingCommandsFrame : Prop :=
  (∀ (s t : State) (off : Byte),
    exec (.ldb off) s = .next t ∨ exec (.dec16 off) s = .next t ∨ exec (.dec32 off) s = .next t →
    SameBuf s t ∧ SameTransaction s t ∧ SamePorts s t ∧ t.crcreg = s.crcreg) ∧
  (∀ (s t : State) (len : Half), exec (.crcGen len) s = .next t ∨ exec (.crcChk len) s = .next t →
    SameBuf s t ∧ SameTransaction s t ∧ SamePorts s t)

/-- The storing commands change the bytes they name, `ERR`, for `CRC.APP` also `RES` and `CRCREG`, and nothing else
(R39, R70, R72, R73, R83). -/
def Obligations.StoringCommandsFrame : Prop :=
  (∀ (s t : State) (off byte : Byte), exec (.stb off byte) s = .next t →
    SameBufOutside off.toNat 1 s t ∧ t.res = s.res ∧ t.crcreg = s.crcreg ∧ SameTransaction s t ∧ SamePorts s t) ∧
  (∀ (s t : State) (off : Byte) (value : Half), exec (.enc16 off value) s = .next t →
    SameBufOutside off.toNat 2 s t ∧ t.res = s.res ∧ t.crcreg = s.crcreg ∧ SameTransaction s t ∧ SamePorts s t) ∧
  (∀ (s t : State) (off : Byte) (value : Word), exec (.enc32 off value) s = .next t →
    SameBufOutside off.toNat 4 s t ∧ t.res = s.res ∧ t.crcreg = s.crcreg ∧ SameTransaction s t ∧ SamePorts s t) ∧
  (∀ (s t : State) (len : Half), exec (.crcApp len) s = .next t →
    SameBufOutside len.toNat 2 s t ∧ SameTransaction s t ∧ SamePorts s t)

/-- The builders change the header bytes, `RES` and `ERR`, and nothing else (R90 to R93). -/
def Obligations.BuildersFrame : Prop :=
  ∀ (s t : State) (addr : Byte) (start count : Half),
    (exec (.bldRh addr start count) s = .next t ∨ exec (.bldRi addr start count) s = .next t →
      SameBufOutside 0 6 s t ∧ t.crcreg = s.crcreg ∧ SameTransaction s t ∧ SamePorts s t) ∧
    (exec (.bldWm addr start count) s = .next t →
      SameBufOutside 0 7 s t ∧ t.crcreg = s.crcreg ∧ SameTransaction s t ∧ SamePorts s t)

/-- Accepting `XACT` changes the two CRC bytes, the registers R103 names, `CRCREG`, `ERR` and the trace log, and nothing
else (R100, R101, R103, R104). -/
def Obligations.XactAcceptanceFrame : Prop :=
  ∀ (s t : State) (psize : Half), exec (.xact psize) s = .next t →
    SameBufOutside psize.toNat 2 s t ∧ t.res = s.res ∧ t.excf = s.excf ∧ t.result = s.result ∧ t.rxcnt = s.rxcnt ∧
    t.explen = s.explen ∧ t.excode = s.excode ∧ t.awaiting = s.awaiting ∧ t.cmds = s.cmds ∧ t.txReady = s.txReady ∧
    t.rxAns = s.rxAns ∧ t.rxReady = s.rxReady ∧ t.resetIn = s.resetIn ∧ t.bus = s.bus ∧ t.timeoutMs = s.timeoutMs ∧
    t.epoch = s.epoch ∧ t.reads = s.reads ∧ t.tick = s.tick

/-- Every command: inside R36's limits it completes with `CAUSE = 0` and `STICKY` as it was, outside them it raises
`BOUNDS` and changes nothing else (R36, R131, R133). -/
def Obligations.BoundsRaisedExactlyOutsideLimits : Prop :=
  ∀ (i : Instr) (s : State),
    (i.wellFormed = true → ∃ t, exec i s = .next t ∧ t.cause = 0 ∧ t.sticky = s.sticky) ∧
    (i.wellFormed = false → exec i s = .next { s with cause := 3, sticky := true })

/-- R131: a command error changes `ERR.CAUSE` and `ERR.STICKY` and nothing else, and the port is ready for the next
command. -/
def Obligations.CommandErrorChangesOnlyErr : Prop :=
  ∀ (s t : State) (w : CmdWord) (rest : List CmdWord), s.Presents w rest → step s = .next t → t.cause ≠ 0 →
    t = { s with resetIn := s.resetIn.tail, cmds := rest, cause := t.cause, sticky := true }

/-- R132: the one cause recorded for any word, from the word's own fields: `ILLOP`, then `RSVD`, then `BOUNDS`. -/
def Obligations.CauseOfEveryWord : Prop :=
  ∀ (s : State) (w : CmdWord) (rest : List CmdWord), s.Presents w rest → ∃ t, step s = .next t ∧
    (fieldOp w ∉ opcodeValues → t.cause = 1) ∧
    (fieldOp w ∈ opcodeValues → (∀ r ∈ opcodeRows, r.covers w = false) → t.cause = 2) ∧
    ((∃ r ∈ opcodeRows, r.covers w = true) → WordBeyondLimit w → t.cause = 3) ∧
    ((∃ r ∈ opcodeRows, r.covers w = true) → ¬ WordBeyondLimit w → t.cause = 0)

/-- R133: an accepted command that does not raise sets `CAUSE` to 0 (an `XACT` when it is accepted) and leaves `STICKY`;
`STICKY` is set by every command error and cleared by nothing but reset; an engine step leaves both. -/
def Obligations.StickyClearedOnlyByReset : Prop :=
  (∀ (s t : State) (w : CmdWord) (rest : List CmdWord) (i : Instr), s.Presents w rest → decode w = .cmd i →
    i.wellFormed = true → step s = .next t → t.cause = 0 ∧ t.sticky = s.sticky) ∧
  (∀ s t : State, s.resetNow = false → step s = .next t → s.sticky = true → t.sticky = true) ∧
  (∀ (s t : State) (w : CmdWord) (rest : List CmdWord), s.Presents w rest → step s = .next t →
    t.sticky = (s.sticky || t.cause != 0)) ∧
  (∀ s t : State, s.resetNow = false → s.phase ≠ .idle → step s = .next t → t.cause = s.cause ∧ t.sticky = s.sticky) ∧
  (∀ s t : State, s.resetNow = true → step s = .next t → t.sticky = false)

/-! ### TransactionEngine, step by step -/

/-- `XACT` with an operand of 2 to 254 is accepted: the latches of R103, the CRC of R104, the trace event of R105. That
the CRC and the trace event come in the step of acceptance is the model's choice (log 1). -/
def Obligations.XactIsAccepted : Prop :=
  ∀ (s : State) (psize : Half), 2 ≤ psize.toNat → psize.toNat ≤ 254 → ∃ t, exec (.xact psize) s = .next t ∧
    t.phase = .tx ∧ t.psz.toNat = psize.toNat ∧ t.reqfc = s.rd 1 ∧ t.txcnt = 0 ∧ t.valid = false ∧ t.cause = 0 ∧
    t.sticky = s.sticky ∧ t.res = s.res ∧
    (t.rd psize.toNat).toNat = (crc16 ((List.range psize.toNat).map s.rd)).toNat % 256 ∧
    (t.rd (psize.toNat + 1)).toNat = (crc16 ((List.range psize.toNat).map s.rd)).toNat / 256 ∧
    t.trace = s.trace ++ [.txFrame ((List.range (psize.toNat + 2)).map t.rd)]

/-- Phase `TX`: a byte offered to a transport that is ready is handed over in order, the final one marked; one that is
not ready takes nothing and nothing moves (R105, R106). -/
def Obligations.TxHandsOverNextByte : Prop :=
  ∀ s : State, s.phase = .tx → s.resetNow = false → s.txcnt.toNat < s.psz.toNat + 2 → s.psz.toNat + 2 ≤ 256 →
    ∃ t, step s = .next t ∧ t.phase = .tx ∧ SameBuf s t ∧ t.psz = s.psz ∧ t.reqfc = s.reqfc ∧ t.trace = s.trace ∧
      (s.txReady.head? ≠ some false → t.txcnt.toNat = s.txcnt.toNat + 1 ∧
        t.bus = s.bus ++ [.txByte (s.rd s.txcnt.toNat) (decide (s.txcnt.toNat = s.psz.toNat + 1))]) ∧
      (s.txReady.head? = some false → t.txcnt = s.txcnt ∧ t.bus = s.bus)

/-- R107: after the last byte, the expected length by the request's function code, the counters and the flag cleared,
phase `RX`. -/
def Obligations.ReceptionStarts : Prop :=
  ∀ s : State, s.phase = .tx → s.resetNow = false → s.psz.toNat + 2 ≤ s.txcnt.toNat → ∃ t, step s = .next t ∧
    (4 < s.reqfc.toNat → t.explen.toNat = 8) ∧ (s.reqfc.toNat ≤ 4 → t.explen.toNat = 257) ∧ t.rxcnt = 0 ∧
    t.excf = false ∧ t.phase = .rx ∧ t.bus = s.bus ∧ SameBuf s t

/-- One byte of the loop: below both limits a read request carrying `TIMEOUT_MS` is issued and is outstanding; while the
transport does not answer nothing moves; the answered byte is stored at `BUF[RXCNT]` and counted, one answer used up, and
no other byte changes (R108, R109). That a request and its answer are two steps is the model's choice (log 16). -/
def Obligations.ReceivedByteIsStored : Prop :=
  (∀ s : State, s.phase = .rx → s.resetNow = false → s.awaiting = false → s.rxcnt.toNat < s.explen.toNat →
    s.rxcnt.toNat < 256 → ∃ t, step s = .next t ∧ t.phase = .rx ∧ t.awaiting = true ∧
      t.bus = s.bus ++ [.readReq s.timeoutMs] ∧ SameBuf s t ∧ t.rxcnt = s.rxcnt ∧ t.explen = s.explen ∧
      ∀ k, t.answerAt k = s.answerAt k) ∧
  (∀ s : State, s.phase = .rx → s.resetNow = false → s.awaiting = true → s.rxcnt.toNat < 256 →
    s.rxReady.head? = some false → ∃ t, step s = .next t ∧ t.phase = .rx ∧ t.awaiting = true ∧ t.bus = s.bus ∧
      SameBuf s t ∧ t.rxcnt = s.rxcnt ∧ t.explen = s.explen ∧ ∀ k, t.answerAt k = s.answerAt k) ∧
  (∀ s : State, s.phase = .rx → s.resetNow = false → s.awaiting = true → s.rxcnt.toNat < 256 →
    s.rxReady.head? ≠ some false → (s.answerAt 0).ok = true → ∃ t, step s = .next t ∧ t.phase = .rx ∧
      t.awaiting = false ∧ t.rd s.rxcnt.toNat = (s.answerAt 0).byte ∧ SameBufOutside s.rxcnt.toNat 1 s t ∧
      t.rxcnt.toNat = s.rxcnt.toNat + 1 ∧ t.bus = s.bus ∧ t.rxAns = s.rxAns.tail ∧
      ∀ k, t.answerAt k = s.answerAt (k + 1))

/-- R110: after the second byte bit 7 of `BUF[1]` sets `EXCF`, and `EXPLEN` does not change. -/
def Obligations.SecondByteFlagsException : Prop :=
  ∀ s : State, s.phase = .rx → s.resetNow = false → s.awaiting = true → s.rxReady.head? ≠ some false → s.rxcnt = 1 →
    (s.answerAt 0).ok = true → ∃ t, step s = .next t ∧ t.rxcnt = 2 ∧ t.rd 1 = (s.answerAt 0).byte ∧
      t.excf = (s.excf || (t.rd 1).getLsbD 7) ∧ t.explen = s.explen ∧ t.excode = s.excode

/-- R111: after the third byte the exception code and length, the length of a read response, or nothing; after it
nothing more is decided. -/
def Obligations.ThirdByteResolvesLength : Prop :=
  (∀ s : State, s.phase = .rx → s.resetNow = false → s.awaiting = true → s.rxReady.head? ≠ some false → s.rxcnt = 2 →
    (s.answerAt 0).ok = true → ∃ t, step s = .next t ∧ t.rxcnt = 3 ∧ t.rd 2 = (s.answerAt 0).byte ∧ t.excf = s.excf ∧
      (s.excf = true → t.excode = t.rd 2 ∧ t.explen.toNat = 5) ∧
      (s.excf = false → t.excode = s.excode ∧
        t.explen.toNat = if s.explen.toNat = 257 then 3 + (t.rd 2).toNat + 2 else s.explen.toNat)) ∧
  (∀ s t : State, s.phase = .rx → s.resetNow = false → 3 ≤ s.rxcnt.toNat → step s = .next t →
    t.explen = s.explen ∧ t.excf = s.excf ∧ t.excode = s.excode)

/-- R112: the loop ends when the bytes received reach the expected length or the capacity, or when a read fails, and
then only; the step that ends it stores nothing, and no read request is issued in it or after it. -/
def Obligations.ReceptionEndsExactlyThen : Prop :=
  (∀ s : State, s.phase = .rx → s.resetNow = false → (s.awaiting = true → s.rxcnt.toNat < 256) → ∃ t, step s = .next t ∧
    (t.phase = .check ↔ (s.awaiting = false ∧ (s.explen.toNat ≤ s.rxcnt.toNat ∨ 256 ≤ s.rxcnt.toNat)) ∨
      (s.awaiting = true ∧ s.rxReady.head? ≠ some false ∧ (s.answerAt 0).ok = false)) ∧
    (t.phase ≠ .check → t.phase = .rx) ∧
    (t.phase = .check → SameBuf s t ∧ t.rxcnt = s.rxcnt ∧ t.explen = s.explen ∧ t.excf = s.excf ∧ t.awaiting = false) ∧
    t.bus = s.bus ++
      (if s.awaiting = false ∧ s.rxcnt.toNat < s.explen.toNat ∧ s.rxcnt.toNat < 256 then [.readReq s.timeoutMs] else [])) ∧
  (∀ s t : State, s.phase = .check → s.resetNow = false → step s = .next t → t.phase = .idle ∧ t.bus = s.bus)

/-- Step 5 (R113, R116): counts that differ give `SizeMismatch`, whatever else holds. -/
def Obligations.SizeMismatchOutcome : Prop :=
  ∀ s : State, s.phase = .check → s.resetNow = false → s.rxcnt.toNat ≤ 256 → s.rxcnt ≠ s.explen →
    ∃ t, step s = .next t ∧ t.result = 0x0200#16 ∧ t.valid = true ∧ t.phase = .idle ∧ SameBuf s t ∧
      t.rxcnt = s.rxcnt ∧ t.explen = s.explen ∧ t.excf = s.excf ∧
      t.trace = s.trace ++ [.sizeErr, .rxFrame ((List.range s.rxcnt.toNat).map s.rd)]

/-- R117: the ErrorMapper, a function of the two checks, the exception flag and the code; the names of codes 1 to 8, and
no name, but the raw code, for the others. -/
def Obligations.ErrorMapperTaxonomy : Prop :=
  (∀ (crcOk excf : Bool) (excode : Byte), (errorMapper false crcOk excf excode).toBits = 0x0200#16 ∧
    (errorMapper true false excf excode).toBits = 0x0300#16 ∧
    (errorMapper true true true excode).toBits.toNat = 0x0100 + excode.toNat ∧
    (errorMapper true true false excode).toBits = 0) ∧
  (List.range 9).map (fun k => exceptionName (.ofNat 8 k)) =
    [none, some .illegalFunction, some .illegalDataAddress, some .illegalDataValue, some .slaveDeviceFailure,
      some .acknowledge, some .slaveBusy, some .negativeAcknowledge, some .memoryParityError] ∧
  (∀ code : Byte, 9 ≤ code.toNat → exceptionName code = none)

/-- Step 6 (R114, R116): counts that agree and a CRC that does not give `CrcMismatch`. -/
def Obligations.CrcMismatchOutcome : Prop :=
  ∀ s : State, s.phase = .check → s.resetNow = false → 2 ≤ s.rxcnt.toNat → s.rxcnt.toNat ≤ 256 → s.rxcnt = s.explen →
    (crc16 ((List.range (s.rxcnt.toNat - 2)).map s.rd)).toNat ≠
      (s.rd (s.rxcnt.toNat - 1)).toNat * 256 + (s.rd (s.rxcnt.toNat - 2)).toNat →
    ∃ t, step s = .next t ∧ t.result = 0x0300#16 ∧ t.valid = true ∧ t.phase = .idle ∧ SameBuf s t ∧
      t.rxcnt = s.rxcnt ∧ t.explen = s.explen ∧ t.excf = s.excf ∧
      t.trace = s.trace ++ [.crcErr, .rxFrame ((List.range s.rxcnt.toNat).map s.rd)]

/-- Step 7 (R115, R116): both checks passed, the recorded exception code or `Ok`. -/
def Obligations.CompleteResponseOutcome : Prop :=
  ∀ s : State, s.phase = .check → s.resetNow = false → 2 ≤ s.rxcnt.toNat → s.rxcnt.toNat ≤ 256 → s.rxcnt = s.explen →
    (crc16 ((List.range (s.rxcnt.toNat - 2)).map s.rd)).toNat =
      (s.rd (s.rxcnt.toNat - 1)).toNat * 256 + (s.rd (s.rxcnt.toNat - 2)).toNat →
    ∃ t, step s = .next t ∧ (s.excf = true → t.result.toNat = 0x0100 + s.excode.toNat) ∧
      (s.excf = false → t.result = 0) ∧ t.valid = true ∧ t.phase = .idle ∧ SameBuf s t ∧ t.rxcnt = s.rxcnt ∧
      t.explen = s.explen ∧ t.excf = s.excf ∧
      t.trace = s.trace ++ [.rxFrame ((List.range s.rxcnt.toNat).map s.rd)]

/-! ### TransactionEngine, the whole command -/

/-- An accepted `XACT` runs to the state R122's function gives: buffer, result, counters, transmitted frame, read
requests, trace (R44, R103 to R116, R122, R124). That it is reached rests on the transport taking every byte and
answering every request after finitely many steps, U6's premise (logs 4, 16); that no read request is outstanding in an
idle block is the invariant `State.Inv.awaiting_rx`. -/
def Obligations.XactRunsAsTransact : Prop :=
  ∀ (s : State) (w : CmdWord) (rest : List CmdWord) (psize : Half), s.Presents w rest → decode w = .cmd (.xact psize) →
    2 ≤ psize.toNat → psize.toNat ≤ 254 → s.NoReset → s.awaiting = false →
    ∃ (r : Transacted) (k : Nat) (t : State), r = transact (s.rdFirst 256) psize.toNat s.answerAt ∧ RunsTo k s t ∧
      t.phase = .idle ∧ t.awaiting = false ∧ t.valid = true ∧
      t.rdFirst 256 = r.buf ∧ t.result = r.result.toBits ∧
      t.rxcnt.toNat = r.rxcnt ∧ t.explen.toNat = r.explen ∧ t.excf = r.excf ∧ t.cause = 0 ∧ t.sticky = s.sticky ∧
      t.res = s.res ∧ t.cmds = rest ∧ t.rxAns = s.rxAns.drop r.used ∧
      t.bus = s.bus ++ txEvents r.tx ++ List.replicate r.used (.readReq s.timeoutMs) ∧
      t.trace = s.trace ++ [.txFrame r.tx] ++ errorTrace r.result ++ [.rxFrame (r.buf.take r.rxcnt)]

/-- Without reset the block is ready again after at most 771 steps and the steps in which the transport is not ready or
does not answer (R12, R106, R108, R112; the two finite lines are the fairness premise of U6, logs 4, 16; what a step is:
log 1). -/
def Obligations.XactEndsWithinBound : Prop :=
  ∀ s : State, s.Inv → s.NoReset → ∃ (k : Nat) (t : State), k ≤ s.txReady.length + s.rxReady.length + 771 ∧ RunsTo k s t ∧ t.phase = .idle

/-- What a transaction gives depends on the answers and on whether the function code is a write code, on nothing older
(R24, R166). -/
def Obligations.TransactIgnoresOldBuffer : Prop :=
  ∀ (buf buf' : List Byte) (psz psz' : Nat) (ans : Nat → RxAnswer), buf.length = 256 → buf'.length = 256 → 2 ≤ psz →
    psz ≤ 254 → 2 ≤ psz' → psz' ≤ 254 → (4 < (buf.getD 1 0).toNat ↔ 4 < (buf'.getD 1 0).toNat) →
    (transact buf psz ans).result = (transact buf' psz' ans).result ∧
    (transact buf psz ans).rxcnt = (transact buf' psz' ans).rxcnt ∧
    (transact buf psz ans).explen = (transact buf' psz' ans).explen ∧
    (transact buf psz ans).excf = (transact buf' psz' ans).excf ∧
    (transact buf psz ans).used = (transact buf' psz' ans).used ∧
    (transact buf psz ans).buf.take (transact buf psz ans).rxcnt =
      (transact buf' psz' ans).buf.take (transact buf' psz' ans).rxcnt

/-- The buffer after a transaction: the received bytes in order, and behind them what step 1 left; at most
`min(EXPLEN, CAP)` read requests (R112, R119). -/
def Obligations.TransactLeavesReceivedBytes : Prop :=
  ∀ (buf : List Byte) (psz : Nat) (ans : Nat → RxAnswer), buf.length = 256 → 2 ≤ psz → psz ≤ 254 →
    (transact buf psz ans).rxcnt ≤ 256 ∧ (transact buf psz ans).buf.length = 256 ∧
    (transact buf psz ans).used ≤ min (transact buf psz ans).explen 256 ∧
    (transact buf psz ans).buf.take (transact buf psz ans).rxcnt =
      (List.range (transact buf psz ans).rxcnt).map (fun k => (ans k).byte) ∧
    (transact buf psz ans).buf.drop (transact buf psz ans).rxcnt =
      (withRequestCrc buf psz).drop (transact buf psz ans).rxcnt

/-- A response whose length is the one its own bytes and the request's function code resolve to is received whole and
gives `CrcMismatch`, or with a good CRC `Ok` or the slave's exception, whatever slave address, function code bits, byte
count or echo it carries (R59 to R61, R115, R120, R123). -/
def Obligations.ResponseOfResolvedLength : Prop :=
  ∀ (buf : List Byte) (psz : Nat) (ans : Nat → RxAnswer) (body : List Byte) (lo hi : Byte), buf.length = 256 →
    2 ≤ psz → psz ≤ 254 → 3 ≤ body.length → body.length ≤ 254 →
    (∀ k, k < body.length + 2 → ans k = ⟨(body ++ [lo, hi]).getD k 0, true⟩) →
    body.length + 2 = (if (body.getD 1 0).getLsbD 7 then 5
      else if 4 < (buf.getD 1 0).toNat then 8 else 5 + (body.getD 2 0).toNat) →
    (transact buf psz ans).rxcnt = body.length + 2 ∧ (transact buf psz ans).explen = body.length + 2 ∧
    (transact buf psz ans).used = body.length + 2 ∧
    (transact buf psz ans).result =
      (if hi.toNat * 256 + lo.toNat ≠ (crc16 body).toNat then .crcMismatch
       else if (body.getD 1 0).getLsbD 7 then .slaveException (body.getD 2 0) else .ok)

/-- A failed read shows up as `SizeMismatch`, always, and so does a read response that asks for more than the buffer
holds (R113, R121, R135). -/
def Obligations.FailedReadGivesSizeMismatch : Prop :=
  ∀ (buf : List Byte) (psz : Nat) (ans : Nat → RxAnswer), buf.length = 256 → 2 ≤ psz → psz ≤ 254 →
    ((∃ k, k < (transact buf psz ans).used ∧ (ans k).ok = false) → (transact buf psz ans).result = .sizeMismatch) ∧
    ((∀ k, k < 256 → (ans k).ok = true) → (buf.getD 1 0).toNat ≤ 4 → (ans 1).byte.getLsbD 7 = false →
      252 ≤ (ans 2).byte.toNat →
      (transact buf psz ans).result = .sizeMismatch ∧ (transact buf psz ans).rxcnt = 256 ∧
      (transact buf psz ans).explen = 5 + (ans 2).byte.toNat)
end

