-- ==== Sys2Proof/Laws/Crc.lean ====
section
/-! SUPPORT. The CRC register step by step: one more byte, and that no step loses information. -/
namespace Sys2Proof.Machine

@[simp] theorem crc16_nil : crc16 [] = 0xFFFF#16 := rfl

theorem crc16_concat (s : List Byte) (b : Byte) : crc16 (s ++ [b]) = crcByte (crc16 s) b := by
  simp [crc16]

/-- Bit 15 of the shifted register is the bit shifted out: 0xA001 has it set, and the shift clears it. -/
theorem crcShift_msb (c : BitVec 16) : (crcShift c).getLsbD 15 = c.getLsbD 0 := by
  unfold crcShift
  split
  · next h => simpa using h.symm
  · next h => simpa using h

/-- Two registers that shift to the same register are the same. -/
theorem crcShift_injective {c d : BitVec 16} (h : crcShift c = crcShift d) : c = d := by
  have h0 : c.getLsbD 0 = d.getLsbD 0 := by rw [← crcShift_msb, ← crcShift_msb, h]
  have hs : c >>> 1 = d >>> 1 := by
    unfold crcShift at h
    cases hc : c.getLsbD 0 <;> rw [hc] at h0 <;> rw [hc, ← h0] at h
    · simpa using h
    · simpa [BitVec.xor_left_inj] using h
  refine BitVec.eq_of_getLsbD_eq fun i hi => ?_
  cases i with
  | zero => exact h0
  | succ i =>
    have e := congrArg (fun v : BitVec 16 => v.getLsbD i) hs
    simpa [Nat.add_comm 1] using e

theorem crcShifts_injective (k : Nat) {c d : BitVec 16} (h : crcShifts k c = crcShifts k d) : c = d := by
  induction k generalizing c d with
  | zero => exact h
  | succ k ih => exact crcShift_injective (ih h)

/-- The same byte from two registers gives the same register only if they were the same. -/
theorem crcByte_injective_register {c d : BitVec 16} {b : Byte} (h : crcByte c b = crcByte d b) : c = d := by
  simpa [BitVec.xor_left_inj] using crcShifts_injective 8 h

/-- Two bytes into one register give the same register only if they are the same. -/
theorem crcByte_injective_byte {c : BitVec 16} {a b : Byte} (h : crcByte c a = crcByte c b) : a = b := by
  have e : a.setWidth 16 = b.setWidth 16 := by simpa [BitVec.xor_right_inj] using crcShifts_injective 8 h
  have h' := congrArg BitVec.toNat e
  have ha := a.isLt
  have hb := b.isLt
  simp only [BitVec.toNat_setWidth] at h'
  exact BitVec.eq_of_toNat_eq (by omega)

/-- Two registers that the same bytes take to one register are the same. -/
theorem foldl_crcByte_injective {s : List Byte} {c d : BitVec 16} (h : s.foldl crcByte c = s.foldl crcByte d) : c = d := by
  induction s generalizing c d with
  | nil => exact h
  | cons b s ih => exact crcByte_injective_register (ih h)

/-- A shift that moves out a 0 is a division by 2. -/
theorem crcShift_even {c : BitVec 16} (h : c.getLsbD 0 = false) : crcShift c = c >>> 1 := by
  rw [crcShift, h]; rfl

end Sys2Proof.Machine
end

