-- ==== Sys2Proof/Laws/Decode.lean ====
section
/-! SUPPORT. The fields of a packed command word, and a word packed from its fields. -/
namespace Sys2Proof

theorem extractLsb'_append_lo {n m : Nat} (x : BitVec n) (y : BitVec m) : (x ++ y).extractLsb' 0 m = y := by
  refine BitVec.eq_of_getLsbD_eq fun i hi => ?_
  simp [BitVec.getLsbD_append, hi]

theorem extractLsb'_append_hi {n m : Nat} (x : BitVec n) (y : BitVec m) : (x ++ y).extractLsb' m n = x := by
  refine BitVec.eq_of_getLsbD_eq fun i hi => ?_
  simp [BitVec.getLsbD_append, hi]

/-- A word of two halves is those halves. -/
theorem append_extractLsb' {n m : Nat} (v : BitVec (n + m)) : v.extractLsb' m n ++ v.extractLsb' 0 m = v := by
  refine BitVec.eq_of_getLsbD_eq fun i hi => ?_
  rw [BitVec.getLsbD_append]
  split
  · next h => simp [h]
  · next h => simp [show i - m < n by omega, show m + (i - m) = i by omega]

@[simp] theorem fieldOp_packFields (op a : Byte) (b c : Half) : fieldOp (packFields op a b c) = op := by
  refine BitVec.eq_of_getLsbD_eq fun i hi => ?_
  simp only [fieldOp, packFields, BitVec.getLsbD_extractLsb', BitVec.getLsbD_append]
  simp [hi, show ¬ (40 + i < 16) by omega, show ¬ (40 + i - 16 < 16) by omega, show ¬ (40 + i - 16 - 16 < 8) by omega,
    show 40 + i - 16 - 16 - 8 = i by omega]

@[simp] theorem fieldA_packFields (op a : Byte) (b c : Half) : fieldA (packFields op a b c) = a := by
  refine BitVec.eq_of_getLsbD_eq fun i hi => ?_
  simp only [fieldA, packFields, BitVec.getLsbD_extractLsb', BitVec.getLsbD_append]
  simp [hi, show ¬ (32 + i < 16) by omega, show ¬ (32 + i - 16 < 16) by omega, show 32 + i - 16 - 16 = i by omega]

@[simp] theorem fieldB_packFields (op a : Byte) (b c : Half) : fieldB (packFields op a b c) = b := by
  refine BitVec.eq_of_getLsbD_eq fun i hi => ?_
  simp only [fieldB, packFields, BitVec.getLsbD_extractLsb', BitVec.getLsbD_append]
  simp [hi]

@[simp] theorem fieldC_packFields (op a : Byte) (b c : Half) : fieldC (packFields op a b c) = c := by
  refine BitVec.eq_of_getLsbD_eq fun i hi => ?_
  simp only [fieldC, packFields, BitVec.getLsbD_extractLsb', BitVec.getLsbD_append]
  simp [hi]

/-- A command word is its four fields (R50). -/
theorem packFields_fields (w : CmdWord) : packFields (fieldOp w) (fieldA w) (fieldB w) (fieldC w) = w := by
  refine BitVec.eq_of_getLsbD_eq fun i hi => ?_
  simp only [packFields, fieldOp, fieldA, fieldB, fieldC, BitVec.getLsbD_extractLsb', BitVec.getLsbD_append]
  split
  · next h => simp [h]
  · split
    · next h => simp [h, show 16 + (i - 16) = i by omega]
    · split
      · next h => simp [h, show 32 + (i - 16 - 16) = i by omega]
      · simp [show i - 16 - 16 - 8 < 8 by omega, show 40 + (i - 16 - 16 - 8) = i by omega]

/-- Two words with the same four fields are the same word (R50). -/
theorem cmdWord_ext {w v : CmdWord} (hop : fieldOp w = fieldOp v) (ha : fieldA w = fieldA v) (hb : fieldB w = fieldB v)
    (hc : fieldC w = fieldC v) : w = v := by
  rw [← packFields_fields w, ← packFields_fields v, hop, ha, hb, hc]

/-- `requireZero` gives its command exactly when the check holds. -/
theorem requireZero_cmd {zero : Bool} {i j : Instr} : requireZero zero i = .cmd j ↔ zero = true ∧ i = j := by
  cases zero <;> simp [requireZero]

/-! ### The decoder, opcode by opcode -/

theorem decode_stb {w : CmdWord} (h : fieldOp w = 0x01#8) :
    decode w = requireZero (fieldB w == 0 && (fieldC w).extractLsb' 8 8 == 0) (.stb (fieldA w) ((fieldC w).extractLsb' 0 8)) := by
  simp only [decode, h]; rfl

theorem decode_ldb {w : CmdWord} (h : fieldOp w = 0x02#8) :
    decode w = requireZero (fieldB w == 0 && fieldC w == 0) (.ldb (fieldA w)) := by
  simp only [decode, h]; rfl

theorem decode_enc16 {w : CmdWord} (h : fieldOp w = 0x03#8) :
    decode w = requireZero (fieldB w == 0) (.enc16 (fieldA w) (fieldC w)) := by
  simp only [decode, h]; rfl

theorem decode_enc32 {w : CmdWord} (h : fieldOp w = 0x04#8) :
    decode w = .cmd (.enc32 (fieldA w) (fieldB w ++ fieldC w)) := by
  simp only [decode, h]; rfl

theorem decode_dec16 {w : CmdWord} (h : fieldOp w = 0x05#8) :
    decode w = requireZero (fieldB w == 0 && fieldC w == 0) (.dec16 (fieldA w)) := by
  simp only [decode, h]; rfl

theorem decode_dec32 {w : CmdWord} (h : fieldOp w = 0x06#8) :
    decode w = requireZero (fieldB w == 0 && fieldC w == 0) (.dec32 (fieldA w)) := by
  simp only [decode, h]; rfl

theorem decode_crcGen {w : CmdWord} (h : fieldOp w = 0x10#8) :
    decode w = requireZero (fieldA w == 0 && fieldB w == 0) (.crcGen (fieldC w)) := by
  simp only [decode, h]; rfl

theorem decode_crcApp {w : CmdWord} (h : fieldOp w = 0x11#8) :
    decode w = requireZero (fieldA w == 0 && fieldB w == 0) (.crcApp (fieldC w)) := by
  simp only [decode, h]; rfl

theorem decode_crcChk {w : CmdWord} (h : fieldOp w = 0x12#8) :
    decode w = requireZero (fieldA w == 0 && fieldB w == 0) (.crcChk (fieldC w)) := by
  simp only [decode, h]; rfl

theorem decode_bldRh {w : CmdWord} (h : fieldOp w = 0x20#8) :
    decode w = .cmd (.bldRh (fieldA w) (fieldB w) (fieldC w)) := by
  simp only [decode, h]; rfl

theorem decode_bldRi {w : CmdWord} (h : fieldOp w = 0x21#8) :
    decode w = .cmd (.bldRi (fieldA w) (fieldB w) (fieldC w)) := by
  simp only [decode, h]; rfl

theorem decode_bldWm {w : CmdWord} (h : fieldOp w = 0x22#8) :
    decode w = .cmd (.bldWm (fieldA w) (fieldB w) (fieldC w)) := by
  simp only [decode, h]; rfl

theorem decode_xact {w : CmdWord} (h : fieldOp w = 0x30#8) :
    decode w = requireZero (fieldA w == 0 && fieldB w == 0) (.xact (fieldC w)) := by
  simp only [decode, h]; rfl

/-- Every word has one of the thirteen opcodes, or decodes to `ILLOP` (R55). -/
theorem fieldOp_cases (w : CmdWord) :
    fieldOp w = 0x01#8 ∨ fieldOp w = 0x02#8 ∨ fieldOp w = 0x03#8 ∨ fieldOp w = 0x04#8 ∨ fieldOp w = 0x05#8 ∨ fieldOp w = 0x06#8 ∨
    fieldOp w = 0x10#8 ∨ fieldOp w = 0x11#8 ∨ fieldOp w = 0x12#8 ∨ fieldOp w = 0x20#8 ∨ fieldOp w = 0x21#8 ∨ fieldOp w = 0x22#8 ∨ fieldOp w = 0x30#8 ∨
    decode w = .illop := by
  simp only [← or_assoc]
  refine or_iff_not_imp_left.2 fun h => ?_
  simp only [not_or] at h
  simp only [decode, h, if_false]

/-- A word with an opcode not in the map is `ILLOP` (R55). -/
theorem decode_illop {w : CmdWord} (h : fieldOp w ∉ [0x01#8, 0x02#8, 0x03#8, 0x04#8, 0x05#8, 0x06#8, 0x10#8, 0x11#8,
    0x12#8, 0x20#8, 0x21#8, 0x22#8, 0x30#8]) : decode w = .illop := by
  have := fieldOp_cases w
  simp only [List.mem_cons, List.not_mem_nil, or_false, not_or] at h
  tauto

end Sys2Proof
end

