-- ==== Sys2Proof/Laws/Memory.lean ====
section
/-! SUPPORT. The laws of the buffer: read after write, and that every write keeps the one form of `Memory`. -/
namespace Sys2Proof.Machine

/-! ### Lists of cells -/

@[simp] theorem Memory.load_nil (i : Nat) : Memory.load [] i = none := rfl

theorem Memory.load_cons (k : Nat) (b : Byte) (m : Memory) (i : Nat) :
    Memory.load ((k, b) :: m) i = if k = i then some b else Memory.load m i := rfl

theorem Memory.load_store_same (m : Memory) (i : Nat) (b : Byte) :
    Memory.load (Memory.store m i b) i = some b := by
  induction m with
  | nil => simp [Memory.store, Memory.load]
  | cons c m ih =>
    obtain ⟨k, v⟩ := c
    rw [Memory.store]
    split
    · simp [Memory.load]
    · split
      · simp [Memory.load]
      · have hk : ¬ k = i := fun h => ‹¬ i = k› h.symm
        rw [Memory.load_cons, if_neg hk, ih]

theorem Memory.load_store_other (m : Memory) {i j : Nat} (h : j ≠ i) (b : Byte) :
    Memory.load (Memory.store m i b) j = Memory.load m j := by
  have hij : ¬ i = j := fun e => h e.symm
  induction m with
  | nil => simp [Memory.store, Memory.load, hij]
  | cons c m ih =>
    obtain ⟨k, v⟩ := c
    rw [Memory.store]
    split
    · rw [Memory.load_cons, if_neg hij]
    · split
      · next hk => rw [Memory.load_cons, Memory.load_cons, if_neg hij, if_neg (hk ▸ hij)]
      · rw [Memory.load_cons, Memory.load_cons, ih]

theorem Memory.mem_store {m : Memory} {i : Nat} {b : Byte} {c : Host.Cell} (h : c ∈ Memory.store m i b) :
    c = (i, b) ∨ c ∈ m := by
  induction m with
  | nil => simpa [Memory.store] using h
  | cons d m ih =>
    obtain ⟨k, v⟩ := d
    rw [Memory.store] at h
    split at h
    · simpa using h
    · split at h
      · rcases List.mem_cons.1 h with h | h
        · exact .inl h
        · exact .inr (List.mem_cons_of_mem _ h)
      · rcases List.mem_cons.1 h with h | h
        · exact .inr (h ▸ List.mem_cons_self)
        · exact (ih h).imp id (List.mem_cons_of_mem _)

theorem Memory.store_sorted {m : Memory} (h : m.Pairwise (fun c d => c.1 < d.1)) (i : Nat) (b : Byte) :
    (Memory.store m i b).Pairwise (fun c d => c.1 < d.1) := by
  induction m with
  | nil => simp [Memory.store]
  | cons d m ih =>
    obtain ⟨k, v⟩ := d
    obtain ⟨hk, hm⟩ := List.pairwise_cons.1 h
    rw [Memory.store]
    split
    · next hi =>
      refine List.pairwise_cons.2 ⟨fun c hc => ?_, h⟩
      rcases List.mem_cons.1 hc with rfl | hc
      · exact hi
      · exact Nat.lt_trans hi (hk c hc)
    · split
      · next hi => exact List.pairwise_cons.2 ⟨fun c hc => hi ▸ hk c hc, hm⟩
      · next h1 h2 =>
        refine List.pairwise_cons.2 ⟨fun c hc => ?_, ih hm⟩
        rcases Memory.mem_store hc with rfl | hc
        · exact Nat.lt_of_le_of_ne (Nat.le_of_not_lt h1) (Ne.symm h2)
        · exact hk c hc

/-- A write inside `BUF` keeps the one form. -/
theorem Memory.store_wf {m : Memory} (h : Memory.wf m) {i : Nat} (hi : i < Config.cap) (b : Byte) :
    Memory.wf (Memory.store m i b) :=
  ⟨Memory.store_sorted h.1 i b, fun c hc => (Memory.mem_store hc).elim (fun e => e ▸ hi) (h.2 c)⟩

/-- Writes inside `BUF` keep the one form. -/
theorem Memory.storeBytes_wf {m : Memory} (h : Memory.wf m) {base : Nat} {bs : List Byte}
    (hb : base + bs.length ≤ Config.cap) : Memory.wf (Memory.storeBytes m base bs) := by
  induction bs generalizing m base with
  | nil => exact h
  | cons b bs ih =>
    rw [List.length_cons] at hb
    exact ih (Memory.store_wf h (by omega) b) (by omega)

theorem Memory.load_storeBytes_outside (m : Memory) {base i : Nat} {bs : List Byte}
    (h : i < base ∨ base + bs.length ≤ i) : Memory.load (Memory.storeBytes m base bs) i = Memory.load m i := by
  induction bs generalizing m base with
  | nil => rfl
  | cons b bs ih =>
    rw [List.length_cons] at h
    rw [Memory.storeBytes, ih _ (by omega), Memory.load_store_other _ (by omega)]

theorem Memory.load_storeBytes_inside (m : Memory) (base : Nat) {bs : List Byte} {k : Nat} (h : k < bs.length) :
    Memory.load (Memory.storeBytes m base bs) (base + k) = some bs[k] := by
  induction bs generalizing m base k with
  | nil => simp at h
  | cons b bs ih =>
    rw [Memory.storeBytes]
    cases k with
    | zero => rw [Memory.load_storeBytes_outside _ (.inl (by omega))]; exact Memory.load_store_same m base b
    | succ k => simpa [Nat.add_assoc, Nat.add_comm 1] using ih (Memory.store m base b) (base + 1) (by simpa using h)

/-- Two memories in the one form that list the same bytes are the same list. -/
theorem Memory.ext_of_load {m m' : Memory} (h : Memory.wf m) (h' : Memory.wf m')
    (he : ∀ i, Memory.load m i = Memory.load m' i) : m = m' := by
  have key : ∀ {k : Nat} {m : Memory}, (∀ c ∈ m, k < c.1) → Memory.load m k = none := by
    intro k m
    induction m with
    | nil => intro _; rfl
    | cons c m ih =>
      intro hlt
      obtain ⟨j, v⟩ := c
      have hj : k < j := hlt _ List.mem_cons_self
      rw [Memory.load_cons, if_neg (by omega)]
      exact ih fun c hc => hlt c (List.mem_cons_of_mem _ hc)
  have htail : ∀ {c : Host.Cell} {m : Memory}, Memory.wf (c :: m) → Memory.wf m := fun hw =>
    ⟨(List.pairwise_cons.1 hw.1).2, fun d hd => hw.2 d (List.mem_cons_of_mem _ hd)⟩
  induction m generalizing m' with
  | nil =>
    cases m' with
    | nil => rfl
    | cons c m' => have := he c.1; simp [Memory.load] at this
  | cons c m ih =>
    cases m' with
    | nil => have := he c.1; simp [Memory.load] at this
    | cons d m' =>
      obtain ⟨j, v⟩ := c
      obtain ⟨k, w⟩ := d
      have hm := (List.pairwise_cons.1 h.1).1
      have hm' := (List.pairwise_cons.1 h'.1).1
      have hjk : j = k := by
        rcases Nat.lt_trichotomy j k with hlt | heq | hgt
        · have e := he j
          rw [Memory.load_cons, if_pos rfl,
            key (fun c hc => (List.mem_cons.1 hc).elim (fun e => e ▸ hlt) fun hc => Nat.lt_trans hlt (hm' c hc))] at e
          cases e
        · exact heq
        · have e := he k
          rw [Memory.load_cons (k := k), if_pos rfl,
            key (fun c hc => (List.mem_cons.1 hc).elim (fun e => e ▸ hgt) fun hc => Nat.lt_trans hgt (hm c hc))] at e
          cases e
      subst hjk
      have hvw : v = w := by simpa [Memory.load] using he j
      subst hvw
      congr 1
      refine ih (htail h) (htail h') fun i => ?_
      by_cases hi : j = i
      · subst hi; rw [key hm, key hm']
      · simpa [Memory.load, hi] using he i

/-! ### `BUF` of a state -/

/-- A read depends on the listed bytes and on the reset count alone. -/
theorem State.rd_congr {s t : State} (hb : s.buf = t.buf) (he : s.epoch = t.epoch) (i : Nat) : s.rd i = t.rd i := by
  rw [State.rd, State.rd, hb, he]

@[simp] theorem State.rd_wr_same (s : State) (i : Nat) (b : Byte) : (s.wr i b).rd i = b := by
  simp [State.rd, State.wr, Memory.load_store_same]

theorem State.rd_wr_other (s : State) {i j : Nat} (h : j ≠ i) (b : Byte) : (s.wr i b).rd j = s.rd j := by
  simp [State.rd, State.wr, Memory.load_store_other _ h]

theorem State.rd_wr (s : State) (i j : Nat) (b : Byte) : (s.wr i b).rd j = if j = i then b else s.rd j := by
  split
  · next h => rw [h, State.rd_wr_same]
  · next h => rw [State.rd_wr_other s h]

theorem State.rd_wrBytes_inside (s : State) (base : Nat) {bs : List Byte} {k : Nat} (h : k < bs.length) :
    (s.wrBytes base bs).rd (base + k) = bs[k] := by
  simp [State.rd, State.wrBytes, Memory.load_storeBytes_inside _ _ h]

theorem State.rd_wrBytes_outside (s : State) {base i : Nat} {bs : List Byte} (h : i < base ∨ base + bs.length ≤ i) :
    (s.wrBytes base bs).rd i = s.rd i := by
  simp [State.rd, State.wrBytes, Memory.load_storeBytes_outside _ h]

@[simp] theorem State.rdFirst_length (s : State) (n : Nat) : (s.rdFirst n).length = n := by simp [State.rdFirst]

@[simp] theorem State.rdFirst_zero (s : State) : s.rdFirst 0 = [] := rfl

theorem State.rdFirst_succ (s : State) (n : Nat) : s.rdFirst (n + 1) = s.rdFirst n ++ [s.rd n] := by
  simp [State.rdFirst, List.range_succ]

theorem State.rdFirst_congr {s t : State} {n : Nat} (h : ∀ i, i < n → s.rd i = t.rd i) : s.rdFirst n = t.rdFirst n := by
  unfold State.rdFirst
  exact List.map_congr_left fun i hi => h i (List.mem_range.1 hi)

theorem State.rdFirst_getElem (s : State) {n i : Nat} (h : i < n) :
    (s.rdFirst n)[i]'(by simpa using h) = s.rd i := by simp [State.rdFirst]

theorem State.rdFirst_take (s : State) {n k : Nat} (h : k ≤ n) : (s.rdFirst n).take k = s.rdFirst k := by
  simp [State.rdFirst, ← List.map_take, List.take_range, Nat.min_eq_left h]

/-- The received bytes before index `n` do not see a write at or beyond `n`. -/
theorem State.rdFirst_wrBytes_beyond (s : State) {n base : Nat} (h : n ≤ base) (bs : List Byte) :
    (s.wrBytes base bs).rdFirst n = s.rdFirst n :=
  State.rdFirst_congr fun i hi => State.rd_wrBytes_outside s (.inl (by omega))

end Sys2Proof.Machine
end

