-- ==== Sys2Proof/Laws/State.lean ====
section
/-! SUPPORT. What each named update of a state does to each field: every field of every update, by `rfl`, for `simp`. -/
namespace Sys2Proof.Machine

@[simp] theorem State.wr_fields (s : State) (i : Nat) (b : Byte) :
    (s.wr i b).buf = Memory.store s.buf i b ∧ (s.wr i b).res = s.res ∧ (s.wr i b).phase = s.phase ∧
    (s.wr i b).excf = s.excf ∧ (s.wr i b).valid = s.valid ∧ (s.wr i b).result = s.result ∧
    (s.wr i b).rxcnt = s.rxcnt ∧ (s.wr i b).explen = s.explen ∧ (s.wr i b).cause = s.cause ∧
    (s.wr i b).sticky = s.sticky ∧ (s.wr i b).crcreg = s.crcreg ∧ (s.wr i b).reqfc = s.reqfc ∧
    (s.wr i b).psz = s.psz ∧ (s.wr i b).txcnt = s.txcnt ∧ (s.wr i b).excode = s.excode ∧
    (s.wr i b).awaiting = s.awaiting ∧ (s.wr i b).cmds = s.cmds ∧ (s.wr i b).txReady = s.txReady ∧
    (s.wr i b).rxAns = s.rxAns ∧ (s.wr i b).rxReady = s.rxReady ∧ (s.wr i b).resetIn = s.resetIn ∧
    (s.wr i b).bus = s.bus ∧ (s.wr i b).trace = s.trace ∧ (s.wr i b).timeoutMs = s.timeoutMs ∧
    (s.wr i b).epoch = s.epoch ∧ (s.wr i b).reads = s.reads ∧ (s.wr i b).tick = s.tick := by
  and_intros <;> rfl

@[simp] theorem State.wrBytes_fields (s : State) (base : Nat) (bs : List Byte) :
    (s.wrBytes base bs).buf = Memory.storeBytes s.buf base bs ∧ (s.wrBytes base bs).res = s.res ∧
    (s.wrBytes base bs).phase = s.phase ∧ (s.wrBytes base bs).excf = s.excf ∧ (s.wrBytes base bs).valid = s.valid ∧
    (s.wrBytes base bs).result = s.result ∧ (s.wrBytes base bs).rxcnt = s.rxcnt ∧
    (s.wrBytes base bs).explen = s.explen ∧ (s.wrBytes base bs).cause = s.cause ∧
    (s.wrBytes base bs).sticky = s.sticky ∧ (s.wrBytes base bs).crcreg = s.crcreg ∧
    (s.wrBytes base bs).reqfc = s.reqfc ∧ (s.wrBytes base bs).psz = s.psz ∧ (s.wrBytes base bs).txcnt = s.txcnt ∧
    (s.wrBytes base bs).excode = s.excode ∧ (s.wrBytes base bs).awaiting = s.awaiting ∧
    (s.wrBytes base bs).cmds = s.cmds ∧ (s.wrBytes base bs).txReady = s.txReady ∧
    (s.wrBytes base bs).rxAns = s.rxAns ∧ (s.wrBytes base bs).rxReady = s.rxReady ∧
    (s.wrBytes base bs).resetIn = s.resetIn ∧ (s.wrBytes base bs).bus = s.bus ∧
    (s.wrBytes base bs).trace = s.trace ∧ (s.wrBytes base bs).timeoutMs = s.timeoutMs ∧
    (s.wrBytes base bs).epoch = s.epoch ∧ (s.wrBytes base bs).reads = s.reads ∧
    (s.wrBytes base bs).tick = s.tick := by
  and_intros <;> rfl

@[simp] theorem State.setRes_fields (s : State) (v : Word) :
    (s.setRes v).buf = s.buf ∧ (s.setRes v).res = v ∧ (s.setRes v).phase = s.phase ∧ (s.setRes v).excf = s.excf ∧
    (s.setRes v).valid = s.valid ∧ (s.setRes v).result = s.result ∧ (s.setRes v).rxcnt = s.rxcnt ∧
    (s.setRes v).explen = s.explen ∧ (s.setRes v).cause = s.cause ∧ (s.setRes v).sticky = s.sticky ∧
    (s.setRes v).crcreg = s.crcreg ∧ (s.setRes v).reqfc = s.reqfc ∧ (s.setRes v).psz = s.psz ∧
    (s.setRes v).txcnt = s.txcnt ∧ (s.setRes v).excode = s.excode ∧ (s.setRes v).awaiting = s.awaiting ∧
    (s.setRes v).cmds = s.cmds ∧ (s.setRes v).txReady = s.txReady ∧ (s.setRes v).rxAns = s.rxAns ∧
    (s.setRes v).rxReady = s.rxReady ∧ (s.setRes v).resetIn = s.resetIn ∧ (s.setRes v).bus = s.bus ∧
    (s.setRes v).trace = s.trace ∧ (s.setRes v).timeoutMs = s.timeoutMs ∧ (s.setRes v).epoch = s.epoch ∧
    (s.setRes v).reads = s.reads ∧ (s.setRes v).tick = s.tick := by
  and_intros <;> rfl

@[simp] theorem State.retire_fields (s : State) :
    s.retire.buf = s.buf ∧ s.retire.res = s.res ∧ s.retire.phase = s.phase ∧ s.retire.excf = s.excf ∧
    s.retire.valid = s.valid ∧ s.retire.result = s.result ∧ s.retire.rxcnt = s.rxcnt ∧ s.retire.explen = s.explen ∧
    s.retire.cause = 0 ∧ s.retire.sticky = s.sticky ∧ s.retire.crcreg = s.crcreg ∧ s.retire.reqfc = s.reqfc ∧
    s.retire.psz = s.psz ∧ s.retire.txcnt = s.txcnt ∧ s.retire.excode = s.excode ∧ s.retire.awaiting = s.awaiting ∧
    s.retire.cmds = s.cmds ∧ s.retire.txReady = s.txReady ∧ s.retire.rxAns = s.rxAns ∧
    s.retire.rxReady = s.rxReady ∧ s.retire.resetIn = s.resetIn ∧ s.retire.bus = s.bus ∧ s.retire.trace = s.trace ∧
    s.retire.timeoutMs = s.timeoutMs ∧ s.retire.epoch = s.epoch ∧ s.retire.reads = s.reads ∧
    s.retire.tick = s.tick := by
  and_intros <;> rfl

@[simp] theorem State.raise_fields (s : State) (e : CmdError) :
    (s.raise e).buf = s.buf ∧ (s.raise e).res = s.res ∧ (s.raise e).phase = s.phase ∧ (s.raise e).excf = s.excf ∧
    (s.raise e).valid = s.valid ∧ (s.raise e).result = s.result ∧ (s.raise e).rxcnt = s.rxcnt ∧
    (s.raise e).explen = s.explen ∧ (s.raise e).cause = e.code ∧ (s.raise e).sticky = true ∧
    (s.raise e).crcreg = s.crcreg ∧ (s.raise e).reqfc = s.reqfc ∧ (s.raise e).psz = s.psz ∧
    (s.raise e).txcnt = s.txcnt ∧ (s.raise e).excode = s.excode ∧ (s.raise e).awaiting = s.awaiting ∧
    (s.raise e).cmds = s.cmds ∧ (s.raise e).txReady = s.txReady ∧ (s.raise e).rxAns = s.rxAns ∧
    (s.raise e).rxReady = s.rxReady ∧ (s.raise e).resetIn = s.resetIn ∧ (s.raise e).bus = s.bus ∧
    (s.raise e).trace = s.trace ∧ (s.raise e).timeoutMs = s.timeoutMs ∧ (s.raise e).epoch = s.epoch ∧
    (s.raise e).reads = s.reads ∧ (s.raise e).tick = s.tick := by
  and_intros <;> rfl

@[simp] theorem State.emit_fields (s : State) (ev : TraceEvent) :
    (s.emit ev).buf = s.buf ∧ (s.emit ev).res = s.res ∧ (s.emit ev).phase = s.phase ∧ (s.emit ev).excf = s.excf ∧
    (s.emit ev).valid = s.valid ∧ (s.emit ev).result = s.result ∧ (s.emit ev).rxcnt = s.rxcnt ∧
    (s.emit ev).explen = s.explen ∧ (s.emit ev).cause = s.cause ∧ (s.emit ev).sticky = s.sticky ∧
    (s.emit ev).crcreg = s.crcreg ∧ (s.emit ev).reqfc = s.reqfc ∧ (s.emit ev).psz = s.psz ∧
    (s.emit ev).txcnt = s.txcnt ∧ (s.emit ev).excode = s.excode ∧ (s.emit ev).awaiting = s.awaiting ∧
    (s.emit ev).cmds = s.cmds ∧ (s.emit ev).txReady = s.txReady ∧ (s.emit ev).rxAns = s.rxAns ∧
    (s.emit ev).rxReady = s.rxReady ∧ (s.emit ev).resetIn = s.resetIn ∧ (s.emit ev).bus = s.bus ∧
    (s.emit ev).trace = s.trace ++ [ev] ∧ (s.emit ev).timeoutMs = s.timeoutMs ∧ (s.emit ev).epoch = s.epoch ∧
    (s.emit ev).reads = s.reads ∧ (s.emit ev).tick = s.tick := by
  and_intros <;> rfl

@[simp] theorem State.send_fields (s : State) (ev : TransportEvent) :
    (s.send ev).buf = s.buf ∧ (s.send ev).res = s.res ∧ (s.send ev).phase = s.phase ∧ (s.send ev).excf = s.excf ∧
    (s.send ev).valid = s.valid ∧ (s.send ev).result = s.result ∧ (s.send ev).rxcnt = s.rxcnt ∧
    (s.send ev).explen = s.explen ∧ (s.send ev).cause = s.cause ∧ (s.send ev).sticky = s.sticky ∧
    (s.send ev).crcreg = s.crcreg ∧ (s.send ev).reqfc = s.reqfc ∧ (s.send ev).psz = s.psz ∧
    (s.send ev).txcnt = s.txcnt ∧ (s.send ev).excode = s.excode ∧ (s.send ev).awaiting = s.awaiting ∧
    (s.send ev).cmds = s.cmds ∧ (s.send ev).txReady = s.txReady ∧ (s.send ev).rxAns = s.rxAns ∧
    (s.send ev).rxReady = s.rxReady ∧ (s.send ev).resetIn = s.resetIn ∧ (s.send ev).bus = s.bus ++ [ev] ∧
    (s.send ev).trace = s.trace ∧ (s.send ev).timeoutMs = s.timeoutMs ∧ (s.send ev).epoch = s.epoch ∧
    (s.send ev).reads = s.reads ∧ (s.send ev).tick = s.tick := by
  and_intros <;> rfl

@[simp] theorem State.request_fields (s : State) :
    s.request.buf = s.buf ∧ s.request.res = s.res ∧ s.request.phase = s.phase ∧ s.request.excf = s.excf ∧
    s.request.valid = s.valid ∧ s.request.result = s.result ∧ s.request.rxcnt = s.rxcnt ∧
    s.request.explen = s.explen ∧ s.request.cause = s.cause ∧ s.request.sticky = s.sticky ∧
    s.request.crcreg = s.crcreg ∧ s.request.reqfc = s.reqfc ∧ s.request.psz = s.psz ∧ s.request.txcnt = s.txcnt ∧
    s.request.excode = s.excode ∧ s.request.awaiting = true ∧ s.request.cmds = s.cmds ∧
    s.request.txReady = s.txReady ∧ s.request.rxAns = s.rxAns ∧ s.request.rxReady = s.rxReady ∧
    s.request.resetIn = s.resetIn ∧ s.request.bus = s.bus ++ [.readReq s.timeoutMs] ∧ s.request.trace = s.trace ∧
    s.request.timeoutMs = s.timeoutMs ∧ s.request.epoch = s.epoch ∧ s.request.reads = s.reads ∧
    s.request.tick = s.tick := by
  and_intros <;> rfl

@[simp] theorem State.takeAnswer_fields (s : State) :
    s.takeAnswer.buf = s.buf ∧ s.takeAnswer.res = s.res ∧ s.takeAnswer.phase = s.phase ∧
    s.takeAnswer.excf = s.excf ∧ s.takeAnswer.valid = s.valid ∧ s.takeAnswer.result = s.result ∧
    s.takeAnswer.rxcnt = s.rxcnt ∧ s.takeAnswer.explen = s.explen ∧ s.takeAnswer.cause = s.cause ∧
    s.takeAnswer.sticky = s.sticky ∧ s.takeAnswer.crcreg = s.crcreg ∧ s.takeAnswer.reqfc = s.reqfc ∧
    s.takeAnswer.psz = s.psz ∧ s.takeAnswer.txcnt = s.txcnt ∧ s.takeAnswer.excode = s.excode ∧
    s.takeAnswer.awaiting = false ∧ s.takeAnswer.cmds = s.cmds ∧ s.takeAnswer.txReady = s.txReady ∧
    s.takeAnswer.rxAns = s.rxAns.tail ∧ s.takeAnswer.rxReady = s.rxReady ∧ s.takeAnswer.resetIn = s.resetIn ∧
    s.takeAnswer.bus = s.bus ∧ s.takeAnswer.trace = s.trace ∧ s.takeAnswer.timeoutMs = s.timeoutMs ∧
    s.takeAnswer.epoch = s.epoch ∧ s.takeAnswer.reads = s.reads + 1 ∧ s.takeAnswer.tick = s.tick := by
  and_intros <;> rfl

@[simp] theorem State.crcOver_fields (s : State) (n : Nat) :
    (s.crcOver n).buf = s.buf ∧ (s.crcOver n).res = s.res ∧ (s.crcOver n).phase = s.phase ∧
    (s.crcOver n).excf = s.excf ∧ (s.crcOver n).valid = s.valid ∧ (s.crcOver n).result = s.result ∧
    (s.crcOver n).rxcnt = s.rxcnt ∧ (s.crcOver n).explen = s.explen ∧ (s.crcOver n).cause = s.cause ∧
    (s.crcOver n).sticky = s.sticky ∧ (s.crcOver n).crcreg = crc16 (s.rdFirst n) ∧ (s.crcOver n).reqfc = s.reqfc ∧
    (s.crcOver n).psz = s.psz ∧ (s.crcOver n).txcnt = s.txcnt ∧ (s.crcOver n).excode = s.excode ∧
    (s.crcOver n).awaiting = s.awaiting ∧ (s.crcOver n).cmds = s.cmds ∧ (s.crcOver n).txReady = s.txReady ∧
    (s.crcOver n).rxAns = s.rxAns ∧ (s.crcOver n).rxReady = s.rxReady ∧ (s.crcOver n).resetIn = s.resetIn ∧
    (s.crcOver n).bus = s.bus ∧ (s.crcOver n).trace = s.trace ∧ (s.crcOver n).timeoutMs = s.timeoutMs ∧
    (s.crcOver n).epoch = s.epoch ∧ (s.crcOver n).reads = s.reads ∧ (s.crcOver n).tick = s.tick := by
  and_intros <;> rfl

@[simp] theorem State.appendCrc_fields (s : State) (n : Nat) :
    (s.appendCrc n).buf = Memory.storeBytes s.buf n (littleEndian16 (crc16 (s.rdFirst n))) ∧
    (s.appendCrc n).res = s.res ∧ (s.appendCrc n).phase = s.phase ∧ (s.appendCrc n).excf = s.excf ∧
    (s.appendCrc n).valid = s.valid ∧ (s.appendCrc n).result = s.result ∧ (s.appendCrc n).rxcnt = s.rxcnt ∧
    (s.appendCrc n).explen = s.explen ∧ (s.appendCrc n).cause = s.cause ∧ (s.appendCrc n).sticky = s.sticky ∧
    (s.appendCrc n).crcreg = crc16 (s.rdFirst n) ∧ (s.appendCrc n).reqfc = s.reqfc ∧ (s.appendCrc n).psz = s.psz ∧
    (s.appendCrc n).txcnt = s.txcnt ∧ (s.appendCrc n).excode = s.excode ∧ (s.appendCrc n).awaiting = s.awaiting ∧
    (s.appendCrc n).cmds = s.cmds ∧ (s.appendCrc n).txReady = s.txReady ∧ (s.appendCrc n).rxAns = s.rxAns ∧
    (s.appendCrc n).rxReady = s.rxReady ∧ (s.appendCrc n).resetIn = s.resetIn ∧ (s.appendCrc n).bus = s.bus ∧
    (s.appendCrc n).trace = s.trace ∧ (s.appendCrc n).timeoutMs = s.timeoutMs ∧ (s.appendCrc n).epoch = s.epoch ∧
    (s.appendCrc n).reads = s.reads ∧ (s.appendCrc n).tick = s.tick := by
  and_intros <;> rfl

@[simp] theorem State.acceptXact_fields (s : State) (psize : Half) :
    (s.acceptXact psize).buf = s.buf ∧ (s.acceptXact psize).res = s.res ∧ (s.acceptXact psize).phase = .tx ∧
    (s.acceptXact psize).excf = s.excf ∧ (s.acceptXact psize).valid = false ∧
    (s.acceptXact psize).result = s.result ∧ (s.acceptXact psize).rxcnt = s.rxcnt ∧
    (s.acceptXact psize).explen = s.explen ∧ (s.acceptXact psize).cause = 0 ∧
    (s.acceptXact psize).sticky = s.sticky ∧ (s.acceptXact psize).crcreg = s.crcreg ∧
    (s.acceptXact psize).reqfc = s.rd 1 ∧ (s.acceptXact psize).psz = psize.setWidth 8 ∧
    (s.acceptXact psize).txcnt = 0 ∧ (s.acceptXact psize).excode = s.excode ∧
    (s.acceptXact psize).awaiting = s.awaiting ∧ (s.acceptXact psize).cmds = s.cmds ∧
    (s.acceptXact psize).txReady = s.txReady ∧ (s.acceptXact psize).rxAns = s.rxAns ∧
    (s.acceptXact psize).rxReady = s.rxReady ∧ (s.acceptXact psize).resetIn = s.resetIn ∧
    (s.acceptXact psize).bus = s.bus ∧ (s.acceptXact psize).trace = s.trace ∧
    (s.acceptXact psize).timeoutMs = s.timeoutMs ∧ (s.acceptXact psize).epoch = s.epoch ∧
    (s.acceptXact psize).reads = s.reads ∧ (s.acceptXact psize).tick = s.tick := by
  and_intros <;> rfl

@[simp] theorem State.txByte_fields (s : State) :
    s.txByte.buf = s.buf ∧ s.txByte.res = s.res ∧ s.txByte.phase = s.phase ∧ s.txByte.excf = s.excf ∧
    s.txByte.valid = s.valid ∧ s.txByte.result = s.result ∧ s.txByte.rxcnt = s.rxcnt ∧ s.txByte.explen = s.explen ∧
    s.txByte.cause = s.cause ∧ s.txByte.sticky = s.sticky ∧ s.txByte.crcreg = s.crcreg ∧ s.txByte.reqfc = s.reqfc ∧
    s.txByte.psz = s.psz ∧ s.txByte.txcnt = s.txcnt + 1 ∧ s.txByte.excode = s.excode ∧
    s.txByte.awaiting = s.awaiting ∧ s.txByte.cmds = s.cmds ∧ s.txByte.txReady = s.txReady ∧
    s.txByte.rxAns = s.rxAns ∧ s.txByte.rxReady = s.rxReady ∧ s.txByte.resetIn = s.resetIn ∧
    s.txByte.bus = s.bus ++ [.txByte (s.rd s.txcnt.toNat) (s.txcnt.toNat == s.psz.toNat + 1)] ∧
    s.txByte.trace = s.trace ∧ s.txByte.timeoutMs = s.timeoutMs ∧ s.txByte.epoch = s.epoch ∧
    s.txByte.reads = s.reads ∧ s.txByte.tick = s.tick := by
  and_intros <;> rfl

@[simp] theorem State.pastOffer_fields (s : State) :
    s.pastOffer.buf = s.buf ∧ s.pastOffer.res = s.res ∧ s.pastOffer.phase = s.phase ∧ s.pastOffer.excf = s.excf ∧
    s.pastOffer.valid = s.valid ∧ s.pastOffer.result = s.result ∧ s.pastOffer.rxcnt = s.rxcnt ∧
    s.pastOffer.explen = s.explen ∧ s.pastOffer.cause = s.cause ∧ s.pastOffer.sticky = s.sticky ∧
    s.pastOffer.crcreg = s.crcreg ∧ s.pastOffer.reqfc = s.reqfc ∧ s.pastOffer.psz = s.psz ∧
    s.pastOffer.txcnt = s.txcnt ∧ s.pastOffer.excode = s.excode ∧ s.pastOffer.awaiting = s.awaiting ∧
    s.pastOffer.cmds = s.cmds ∧ s.pastOffer.txReady = s.txReady.tail ∧ s.pastOffer.rxAns = s.rxAns ∧
    s.pastOffer.rxReady = s.rxReady ∧ s.pastOffer.resetIn = s.resetIn ∧ s.pastOffer.bus = s.bus ∧
    s.pastOffer.trace = s.trace ∧ s.pastOffer.timeoutMs = s.timeoutMs ∧ s.pastOffer.epoch = s.epoch ∧
    s.pastOffer.reads = s.reads ∧ s.pastOffer.tick = s.tick := by
  and_intros <;> rfl

@[simp] theorem State.pastWait_fields (s : State) :
    s.pastWait.buf = s.buf ∧ s.pastWait.res = s.res ∧ s.pastWait.phase = s.phase ∧ s.pastWait.excf = s.excf ∧
    s.pastWait.valid = s.valid ∧ s.pastWait.result = s.result ∧ s.pastWait.rxcnt = s.rxcnt ∧
    s.pastWait.explen = s.explen ∧ s.pastWait.cause = s.cause ∧ s.pastWait.sticky = s.sticky ∧
    s.pastWait.crcreg = s.crcreg ∧ s.pastWait.reqfc = s.reqfc ∧ s.pastWait.psz = s.psz ∧
    s.pastWait.txcnt = s.txcnt ∧ s.pastWait.excode = s.excode ∧ s.pastWait.awaiting = s.awaiting ∧
    s.pastWait.cmds = s.cmds ∧ s.pastWait.txReady = s.txReady ∧ s.pastWait.rxAns = s.rxAns ∧
    s.pastWait.rxReady = s.rxReady.tail ∧ s.pastWait.resetIn = s.resetIn ∧ s.pastWait.bus = s.bus ∧
    s.pastWait.trace = s.trace ∧ s.pastWait.timeoutMs = s.timeoutMs ∧ s.pastWait.epoch = s.epoch ∧
    s.pastWait.reads = s.reads ∧ s.pastWait.tick = s.tick := by
  and_intros <;> rfl

@[simp] theorem State.enterRx_fields (s : State) :
    s.enterRx.buf = s.buf ∧ s.enterRx.res = s.res ∧ s.enterRx.phase = .rx ∧ s.enterRx.excf = false ∧
    s.enterRx.valid = s.valid ∧ s.enterRx.result = s.result ∧ s.enterRx.rxcnt = 0 ∧
    s.enterRx.explen = initialExpLen s.reqfc ∧ s.enterRx.cause = s.cause ∧ s.enterRx.sticky = s.sticky ∧
    s.enterRx.crcreg = s.crcreg ∧ s.enterRx.reqfc = s.reqfc ∧ s.enterRx.psz = s.psz ∧ s.enterRx.txcnt = s.txcnt ∧
    s.enterRx.excode = s.excode ∧ s.enterRx.awaiting = s.awaiting ∧ s.enterRx.cmds = s.cmds ∧
    s.enterRx.txReady = s.txReady ∧ s.enterRx.rxAns = s.rxAns ∧ s.enterRx.rxReady = s.rxReady ∧
    s.enterRx.resetIn = s.resetIn ∧ s.enterRx.bus = s.bus ∧ s.enterRx.trace = s.trace ∧
    s.enterRx.timeoutMs = s.timeoutMs ∧ s.enterRx.epoch = s.epoch ∧ s.enterRx.reads = s.reads ∧
    s.enterRx.tick = s.tick := by
  and_intros <;> rfl

@[simp] theorem State.enterCheck_fields (s : State) :
    s.enterCheck.buf = s.buf ∧ s.enterCheck.res = s.res ∧ s.enterCheck.phase = .check ∧
    s.enterCheck.excf = s.excf ∧ s.enterCheck.valid = s.valid ∧ s.enterCheck.result = s.result ∧
    s.enterCheck.rxcnt = s.rxcnt ∧ s.enterCheck.explen = s.explen ∧ s.enterCheck.cause = s.cause ∧
    s.enterCheck.sticky = s.sticky ∧ s.enterCheck.crcreg = s.crcreg ∧ s.enterCheck.reqfc = s.reqfc ∧
    s.enterCheck.psz = s.psz ∧ s.enterCheck.txcnt = s.txcnt ∧ s.enterCheck.excode = s.excode ∧
    s.enterCheck.awaiting = s.awaiting ∧ s.enterCheck.cmds = s.cmds ∧ s.enterCheck.txReady = s.txReady ∧
    s.enterCheck.rxAns = s.rxAns ∧ s.enterCheck.rxReady = s.rxReady ∧ s.enterCheck.resetIn = s.resetIn ∧
    s.enterCheck.bus = s.bus ∧ s.enterCheck.trace = s.trace ∧ s.enterCheck.timeoutMs = s.timeoutMs ∧
    s.enterCheck.epoch = s.epoch ∧ s.enterCheck.reads = s.reads ∧ s.enterCheck.tick = s.tick := by
  and_intros <;> rfl

@[simp] theorem State.storeRx_fields (s : State) (b : Byte) :
    (s.storeRx b).buf = Memory.store s.buf s.rxcnt.toNat b ∧ (s.storeRx b).res = s.res ∧
    (s.storeRx b).phase = s.phase ∧ (s.storeRx b).excf = s.excf ∧ (s.storeRx b).valid = s.valid ∧
    (s.storeRx b).result = s.result ∧ (s.storeRx b).rxcnt = s.rxcnt + 1 ∧ (s.storeRx b).explen = s.explen ∧
    (s.storeRx b).cause = s.cause ∧ (s.storeRx b).sticky = s.sticky ∧ (s.storeRx b).crcreg = s.crcreg ∧
    (s.storeRx b).reqfc = s.reqfc ∧ (s.storeRx b).psz = s.psz ∧ (s.storeRx b).txcnt = s.txcnt ∧
    (s.storeRx b).excode = s.excode ∧ (s.storeRx b).awaiting = s.awaiting ∧ (s.storeRx b).cmds = s.cmds ∧
    (s.storeRx b).txReady = s.txReady ∧ (s.storeRx b).rxAns = s.rxAns ∧ (s.storeRx b).rxReady = s.rxReady ∧
    (s.storeRx b).resetIn = s.resetIn ∧ (s.storeRx b).bus = s.bus ∧ (s.storeRx b).trace = s.trace ∧
    (s.storeRx b).timeoutMs = s.timeoutMs ∧ (s.storeRx b).epoch = s.epoch ∧ (s.storeRx b).reads = s.reads ∧
    (s.storeRx b).tick = s.tick := by
  and_intros <;> rfl

@[simp] theorem State.secondByte_fields (s : State) :
    s.secondByte.buf = s.buf ∧ s.secondByte.res = s.res ∧ s.secondByte.phase = s.phase ∧
    s.secondByte.excf = exceptionFlag s.excf (s.rd 1) ∧ s.secondByte.valid = s.valid ∧
    s.secondByte.result = s.result ∧ s.secondByte.rxcnt = s.rxcnt ∧ s.secondByte.explen = s.explen ∧
    s.secondByte.cause = s.cause ∧ s.secondByte.sticky = s.sticky ∧ s.secondByte.crcreg = s.crcreg ∧
    s.secondByte.reqfc = s.reqfc ∧ s.secondByte.psz = s.psz ∧ s.secondByte.txcnt = s.txcnt ∧
    s.secondByte.excode = s.excode ∧ s.secondByte.awaiting = s.awaiting ∧ s.secondByte.cmds = s.cmds ∧
    s.secondByte.txReady = s.txReady ∧ s.secondByte.rxAns = s.rxAns ∧ s.secondByte.rxReady = s.rxReady ∧
    s.secondByte.resetIn = s.resetIn ∧ s.secondByte.bus = s.bus ∧ s.secondByte.trace = s.trace ∧
    s.secondByte.timeoutMs = s.timeoutMs ∧ s.secondByte.epoch = s.epoch ∧ s.secondByte.reads = s.reads ∧
    s.secondByte.tick = s.tick := by
  and_intros <;> rfl

@[simp] theorem State.thirdByte_fields (s : State) :
    s.thirdByte.buf = s.buf ∧ s.thirdByte.res = s.res ∧ s.thirdByte.phase = s.phase ∧ s.thirdByte.excf = s.excf ∧
    s.thirdByte.valid = s.valid ∧ s.thirdByte.result = s.result ∧ s.thirdByte.rxcnt = s.rxcnt ∧
    s.thirdByte.explen = resolvedExpLen s.excf s.explen (s.rd 2) ∧ s.thirdByte.cause = s.cause ∧
    s.thirdByte.sticky = s.sticky ∧ s.thirdByte.crcreg = s.crcreg ∧ s.thirdByte.reqfc = s.reqfc ∧
    s.thirdByte.psz = s.psz ∧ s.thirdByte.txcnt = s.txcnt ∧
    s.thirdByte.excode = (if s.excf then s.rd 2 else s.excode) ∧ s.thirdByte.awaiting = s.awaiting ∧
    s.thirdByte.cmds = s.cmds ∧ s.thirdByte.txReady = s.txReady ∧ s.thirdByte.rxAns = s.rxAns ∧
    s.thirdByte.rxReady = s.rxReady ∧ s.thirdByte.resetIn = s.resetIn ∧ s.thirdByte.bus = s.bus ∧
    s.thirdByte.trace = s.trace ∧ s.thirdByte.timeoutMs = s.timeoutMs ∧ s.thirdByte.epoch = s.epoch ∧
    s.thirdByte.reads = s.reads ∧ s.thirdByte.tick = s.tick := by
  and_intros <;> rfl

@[simp] theorem State.finish_fields (s : State) (r : ModbusResult) :
    (s.finish r).buf = s.buf ∧ (s.finish r).res = s.res ∧ (s.finish r).phase = .idle ∧ (s.finish r).excf = s.excf ∧
    (s.finish r).valid = true ∧ (s.finish r).result = r.toBits ∧ (s.finish r).rxcnt = s.rxcnt ∧
    (s.finish r).explen = s.explen ∧ (s.finish r).cause = s.cause ∧ (s.finish r).sticky = s.sticky ∧
    (s.finish r).crcreg = s.crcreg ∧ (s.finish r).reqfc = s.reqfc ∧ (s.finish r).psz = s.psz ∧
    (s.finish r).txcnt = s.txcnt ∧ (s.finish r).excode = s.excode ∧ (s.finish r).awaiting = s.awaiting ∧
    (s.finish r).cmds = s.cmds ∧ (s.finish r).txReady = s.txReady ∧ (s.finish r).rxAns = s.rxAns ∧
    (s.finish r).rxReady = s.rxReady ∧ (s.finish r).resetIn = s.resetIn ∧ (s.finish r).bus = s.bus ∧
    (s.finish r).trace = s.trace ++ errorTrace r ++ [.rxFrame (s.rdFirst s.rxcnt.toNat)] ∧
    (s.finish r).timeoutMs = s.timeoutMs ∧ (s.finish r).epoch = s.epoch ∧ (s.finish r).reads = s.reads ∧
    (s.finish r).tick = s.tick := by
  and_intros <;> rfl

@[simp] theorem State.countBusy_fields (s : State) :
    s.countBusy.buf = s.buf ∧ s.countBusy.res = s.res ∧ s.countBusy.phase = s.phase ∧ s.countBusy.excf = s.excf ∧
    s.countBusy.valid = s.valid ∧ s.countBusy.result = s.result ∧ s.countBusy.rxcnt = s.rxcnt ∧
    s.countBusy.explen = s.explen ∧ s.countBusy.cause = s.cause ∧ s.countBusy.sticky = s.sticky ∧
    s.countBusy.crcreg = s.crcreg ∧ s.countBusy.reqfc = s.reqfc ∧ s.countBusy.psz = s.psz ∧
    s.countBusy.txcnt = s.txcnt ∧ s.countBusy.excode = s.excode ∧ s.countBusy.awaiting = s.awaiting ∧
    s.countBusy.cmds = s.cmds ∧ s.countBusy.txReady = s.txReady ∧ s.countBusy.rxAns = s.rxAns ∧
    s.countBusy.rxReady = s.rxReady ∧ s.countBusy.resetIn = s.resetIn ∧ s.countBusy.bus = s.bus ∧
    s.countBusy.trace = s.trace ∧ s.countBusy.timeoutMs = s.timeoutMs ∧ s.countBusy.epoch = s.epoch ∧
    s.countBusy.reads = s.reads ∧ s.countBusy.tick = s.tick + 1 := by
  and_intros <;> rfl

@[simp] theorem State.pastReset_fields (s : State) :
    s.pastReset.buf = s.buf ∧ s.pastReset.res = s.res ∧ s.pastReset.phase = s.phase ∧ s.pastReset.excf = s.excf ∧
    s.pastReset.valid = s.valid ∧ s.pastReset.result = s.result ∧ s.pastReset.rxcnt = s.rxcnt ∧
    s.pastReset.explen = s.explen ∧ s.pastReset.cause = s.cause ∧ s.pastReset.sticky = s.sticky ∧
    s.pastReset.crcreg = s.crcreg ∧ s.pastReset.reqfc = s.reqfc ∧ s.pastReset.psz = s.psz ∧
    s.pastReset.txcnt = s.txcnt ∧ s.pastReset.excode = s.excode ∧ s.pastReset.awaiting = s.awaiting ∧
    s.pastReset.cmds = s.cmds ∧ s.pastReset.txReady = s.txReady ∧ s.pastReset.rxAns = s.rxAns ∧
    s.pastReset.rxReady = s.rxReady ∧ s.pastReset.resetIn = s.resetIn.tail ∧ s.pastReset.bus = s.bus ∧
    s.pastReset.trace = s.trace ∧ s.pastReset.timeoutMs = s.timeoutMs ∧ s.pastReset.epoch = s.epoch ∧
    s.pastReset.reads = s.reads ∧ s.pastReset.tick = s.tick := by
  and_intros <;> rfl

@[simp] theorem State.afterReset_fields (s : State) :
    s.afterReset.buf = [] ∧ s.afterReset.res = 0 ∧ s.afterReset.phase = .idle ∧ s.afterReset.excf = false ∧
    s.afterReset.valid = false ∧ s.afterReset.result = 0 ∧ s.afterReset.rxcnt = 0 ∧ s.afterReset.explen = 0 ∧
    s.afterReset.cause = 0 ∧ s.afterReset.sticky = false ∧ s.afterReset.crcreg = 0 ∧ s.afterReset.reqfc = 0 ∧
    s.afterReset.psz = 0 ∧ s.afterReset.txcnt = 0 ∧ s.afterReset.excode = 0 ∧ s.afterReset.awaiting = false ∧
    s.afterReset.cmds = s.cmds ∧ s.afterReset.txReady = s.txReady ∧ s.afterReset.rxAns = s.rxAns ∧
    s.afterReset.rxReady = s.rxReady ∧ s.afterReset.resetIn = s.resetIn ∧ s.afterReset.bus = s.bus ∧
    s.afterReset.trace = s.trace ∧ s.afterReset.timeoutMs = s.timeoutMs ∧ s.afterReset.epoch = s.epoch + 1 ∧
    s.afterReset.reads = s.reads ∧ s.afterReset.tick = s.tick + 1 := by
  and_intros <;> rfl

@[simp] theorem State.taken_fields (s : State) (rest : List CmdWord) :
    (s.taken rest).buf = s.buf ∧ (s.taken rest).res = s.res ∧ (s.taken rest).phase = s.phase ∧
    (s.taken rest).excf = s.excf ∧ (s.taken rest).valid = s.valid ∧ (s.taken rest).result = s.result ∧
    (s.taken rest).rxcnt = s.rxcnt ∧ (s.taken rest).explen = s.explen ∧ (s.taken rest).cause = s.cause ∧
    (s.taken rest).sticky = s.sticky ∧ (s.taken rest).crcreg = s.crcreg ∧ (s.taken rest).reqfc = s.reqfc ∧
    (s.taken rest).psz = s.psz ∧ (s.taken rest).txcnt = s.txcnt ∧ (s.taken rest).excode = s.excode ∧
    (s.taken rest).awaiting = s.awaiting ∧ (s.taken rest).cmds = rest ∧ (s.taken rest).txReady = s.txReady ∧
    (s.taken rest).rxAns = s.rxAns ∧ (s.taken rest).rxReady = s.rxReady ∧ (s.taken rest).resetIn = s.resetIn.tail ∧
    (s.taken rest).bus = s.bus ∧ (s.taken rest).trace = s.trace ∧ (s.taken rest).timeoutMs = s.timeoutMs ∧
    (s.taken rest).epoch = s.epoch ∧ (s.taken rest).reads = s.reads ∧ (s.taken rest).tick = s.tick := by
  and_intros <;> rfl

/-! ### Updates that leave `BUF` alone -/

@[simp] theorem State.rd_setRes (s : State) (v : Word) (i : Nat) : (s.setRes v).rd i = s.rd i := rfl

@[simp] theorem State.rd_retire (s : State) (i : Nat) : s.retire.rd i = s.rd i := rfl

@[simp] theorem State.rd_raise (s : State) (e : CmdError) (i : Nat) : (s.raise e).rd i = s.rd i := rfl

@[simp] theorem State.rd_emit (s : State) (ev : TraceEvent) (i : Nat) : (s.emit ev).rd i = s.rd i := rfl

@[simp] theorem State.rd_send (s : State) (ev : TransportEvent) (i : Nat) : (s.send ev).rd i = s.rd i := rfl

@[simp] theorem State.rd_request (s : State) (i : Nat) : s.request.rd i = s.rd i := rfl

@[simp] theorem State.rd_takeAnswer (s : State) (i : Nat) : s.takeAnswer.rd i = s.rd i := rfl

@[simp] theorem State.rd_crcOver (s : State) (n : Nat) (i : Nat) : (s.crcOver n).rd i = s.rd i := rfl

@[simp] theorem State.rd_acceptXact (s : State) (psize : Half) (i : Nat) : (s.acceptXact psize).rd i = s.rd i := rfl

@[simp] theorem State.rd_txByte (s : State) (i : Nat) : s.txByte.rd i = s.rd i := rfl

@[simp] theorem State.rd_pastOffer (s : State) (i : Nat) : s.pastOffer.rd i = s.rd i := rfl

@[simp] theorem State.rd_pastWait (s : State) (i : Nat) : s.pastWait.rd i = s.rd i := rfl

@[simp] theorem State.rd_enterRx (s : State) (i : Nat) : s.enterRx.rd i = s.rd i := rfl

@[simp] theorem State.rd_enterCheck (s : State) (i : Nat) : s.enterCheck.rd i = s.rd i := rfl

@[simp] theorem State.rd_secondByte (s : State) (i : Nat) : s.secondByte.rd i = s.rd i := rfl

@[simp] theorem State.rd_thirdByte (s : State) (i : Nat) : s.thirdByte.rd i = s.rd i := rfl

@[simp] theorem State.rd_finish (s : State) (r : ModbusResult) (i : Nat) : (s.finish r).rd i = s.rd i := rfl

@[simp] theorem State.rd_countBusy (s : State) (i : Nat) : s.countBusy.rd i = s.rd i := rfl

@[simp] theorem State.rd_pastReset (s : State) (i : Nat) : s.pastReset.rd i = s.rd i := rfl

@[simp] theorem State.rd_taken (s : State) (rest : List CmdWord) (i : Nat) : (s.taken rest).rd i = s.rd i := rfl

@[simp] theorem State.rdFirst_setRes (s : State) (v : Word) (n : Nat) : (s.setRes v).rdFirst n = s.rdFirst n := rfl

@[simp] theorem State.rdFirst_retire (s : State) (n : Nat) : s.retire.rdFirst n = s.rdFirst n := rfl

@[simp] theorem State.rdFirst_raise (s : State) (e : CmdError) (n : Nat) : (s.raise e).rdFirst n = s.rdFirst n := rfl

@[simp] theorem State.rdFirst_emit (s : State) (ev : TraceEvent) (n : Nat) : (s.emit ev).rdFirst n = s.rdFirst n := rfl

@[simp] theorem State.rdFirst_send (s : State) (ev : TransportEvent) (n : Nat) : (s.send ev).rdFirst n = s.rdFirst n := rfl

@[simp] theorem State.rdFirst_request (s : State) (n : Nat) : s.request.rdFirst n = s.rdFirst n := rfl

@[simp] theorem State.rdFirst_takeAnswer (s : State) (n : Nat) : s.takeAnswer.rdFirst n = s.rdFirst n := rfl

@[simp] theorem State.rdFirst_crcOver (s : State) (k n : Nat) : (s.crcOver k).rdFirst n = s.rdFirst n := rfl

@[simp] theorem State.rdFirst_acceptXact (s : State) (psize : Half) (n : Nat) : (s.acceptXact psize).rdFirst n = s.rdFirst n := rfl

@[simp] theorem State.rdFirst_txByte (s : State) (n : Nat) : s.txByte.rdFirst n = s.rdFirst n := rfl

@[simp] theorem State.rdFirst_pastOffer (s : State) (n : Nat) : s.pastOffer.rdFirst n = s.rdFirst n := rfl

@[simp] theorem State.rdFirst_pastWait (s : State) (n : Nat) : s.pastWait.rdFirst n = s.rdFirst n := rfl

@[simp] theorem State.rdFirst_enterRx (s : State) (n : Nat) : s.enterRx.rdFirst n = s.rdFirst n := rfl

@[simp] theorem State.rdFirst_enterCheck (s : State) (n : Nat) : s.enterCheck.rdFirst n = s.rdFirst n := rfl

@[simp] theorem State.rdFirst_secondByte (s : State) (n : Nat) : s.secondByte.rdFirst n = s.rdFirst n := rfl

@[simp] theorem State.rdFirst_thirdByte (s : State) (n : Nat) : s.thirdByte.rdFirst n = s.rdFirst n := rfl

@[simp] theorem State.rdFirst_finish (s : State) (r : ModbusResult) (n : Nat) : (s.finish r).rdFirst n = s.rdFirst n := rfl

@[simp] theorem State.rdFirst_countBusy (s : State) (n : Nat) : s.countBusy.rdFirst n = s.rdFirst n := rfl

@[simp] theorem State.rdFirst_pastReset (s : State) (n : Nat) : s.pastReset.rdFirst n = s.rdFirst n := rfl

@[simp] theorem State.rdFirst_taken (s : State) (rest : List CmdWord) (n : Nat) : (s.taken rest).rdFirst n = s.rdFirst n := rfl

@[simp] theorem State.rd_storeRx_same (s : State) (b : Byte) : (s.storeRx b).rd s.rxcnt.toNat = b :=
  State.rd_wr_same s _ b

theorem State.rd_storeRx_other (s : State) (b : Byte) {i : Nat} (h : i ≠ s.rxcnt.toNat) :
    (s.storeRx b).rd i = s.rd i := State.rd_wr_other s h b

theorem State.rd_appendCrc_outside (s : State) {n i : Nat} (h : i < n ∨ n + 2 ≤ i) :
    (s.appendCrc n).rd i = s.rd i := State.rd_wrBytes_outside (s.crcOver n) h

@[simp] theorem State.rd_appendCrc_lo (s : State) (n : Nat) :
    (s.appendCrc n).rd n = loByte (crc16 (s.rdFirst n)) :=
  State.rd_wrBytes_inside (s.crcOver n) n (k := 0) (by simp [littleEndian16])

@[simp] theorem State.rd_appendCrc_hi (s : State) (n : Nat) :
    (s.appendCrc n).rd (n + 1) = hiByte (crc16 (s.rdFirst n)) :=
  State.rd_wrBytes_inside (s.crcOver n) n (k := 1) (by simp [littleEndian16])

/-- After a reset every byte is the free value of the new epoch (R26). -/
@[simp] theorem State.rd_afterReset (s : State) (i : Nat) : s.afterReset.rd i = Config.bufAfterReset (s.epoch + 1) i := rfl

end Sys2Proof.Machine
end

