-- ==== Sys2Proof/Laws/Operands.lean ====
section
/-! SUPPORT. The byte orders as numbers, and the bounds check as an inequality. -/
namespace Sys2Proof.Machine

theorem toNat_append {n m : Nat} (x : BitVec n) (y : BitVec m) : (x ++ y).toNat = x.toNat * 2 ^ m + y.toNat := by
  rw [BitVec.toNat_append, ← Nat.shiftLeft_add_eq_or_of_lt y.isLt, Nat.shiftLeft_eq]

@[simp] theorem hiByte_toNat (v : Half) : (hiByte v).toNat = v.toNat / 256 := by
  have := v.isLt
  simp only [hiByte, BitVec.extractLsb'_toNat, Nat.shiftRight_eq_div_pow]
  omega

@[simp] theorem loByte_toNat (v : Half) : (loByte v).toNat = v.toNat % 256 := by
  simp [loByte, BitVec.extractLsb'_toNat]

@[simp] theorem hiHalf_toNat (v : Word) : (hiHalf v).toNat = v.toNat / 65536 := by
  have := v.isLt
  simp only [hiHalf, BitVec.extractLsb'_toNat, Nat.shiftRight_eq_div_pow]
  omega

@[simp] theorem loHalf_toNat (v : Word) : (loHalf v).toNat = v.toNat % 65536 := by
  simp [loHalf, BitVec.extractLsb'_toNat]

@[simp] theorem hiByte_append_loByte (v : Half) : hiByte v ++ loByte v = v := by
  apply BitVec.eq_of_toNat_eq
  rw [toNat_append, hiByte_toNat, loByte_toNat]
  omega

@[simp] theorem hiHalf_append_loHalf (v : Word) : hiHalf v ++ loHalf v = v := by
  apply BitVec.eq_of_toNat_eq
  rw [toNat_append, hiHalf_toNat, loHalf_toNat]
  omega

@[simp] theorem bigEndian16_length (v : Half) : (bigEndian16 v).length = 2 := rfl
@[simp] theorem bigEndian32_length (v : Word) : (bigEndian32 v).length = 4 := rfl
@[simp] theorem littleEndian16_length (v : Half) : (littleEndian16 v).length = 2 := rfl

theorem beyondBuf_iff {base n : Nat} : beyondBuf base n = true ↔ 256 < base + n := by
  simp [beyondBuf, Config.cap]

theorem beyondBuf_eq_false {base n : Nat} : beyondBuf base n = false ↔ base + n ≤ 256 := by
  simp [beyondBuf, Config.cap]

/-- `MemRead(i, 2)` as a number (R8, R74). -/
theorem State.rd16_toNat (s : State) (i : Nat) : (s.rd16 i).toNat = (s.rd i).toNat * 256 + (s.rd (i + 1)).toNat :=
  toNat_append (s.rd i) (s.rd (i + 1))

/-- `MemRead(i, 4)` as a number (R8, R75). -/
theorem State.rd32_toNat (s : State) (i : Nat) : (s.rd32 i).toNat = (s.rd16 i).toNat * 65536 + (s.rd16 (i + 2)).toNat :=
  toNat_append (s.rd16 i) (s.rd16 (i + 2))

/-- `MemRead(i, 4)` byte by byte (R75). -/
theorem State.rd32_toNat_bytes (s : State) (i : Nat) : (s.rd32 i).toNat =
    (s.rd i).toNat * 2 ^ 24 + (s.rd (i + 1)).toNat * 2 ^ 16 + (s.rd (i + 2)).toNat * 2 ^ 8 + (s.rd (i + 3)).toNat := by
  rw [State.rd32_toNat, State.rd16_toNat, State.rd16_toNat, Nat.add_assoc i 2 1]
  omega

theorem State.frameCrc_toNat (s : State) (n : Nat) :
    (s.frameCrc n).toNat = (s.rd (n - 1)).toNat * 256 + (s.rd (n - 2)).toNat := toNat_append _ _

theorem State.rd_wrBytes16_hi (s : State) (o : Nat) (v : Half) : (s.wrBytes o (bigEndian16 v)).rd o = hiByte v :=
  State.rd_wrBytes_inside s o (k := 0) (by simp)

theorem State.rd_wrBytes16_lo (s : State) (o : Nat) (v : Half) : (s.wrBytes o (bigEndian16 v)).rd (o + 1) = loByte v :=
  State.rd_wrBytes_inside s o (k := 1) (by simp)

/-- The four bytes of a 32-bit value, from the most significant (R31). -/
theorem State.rd_wrBytes32 (s : State) (o : Nat) (w : Word) :
    (s.wrBytes o (bigEndian32 w)).rd o = hiByte (hiHalf w) ∧
    (s.wrBytes o (bigEndian32 w)).rd (o + 1) = loByte (hiHalf w) ∧
    (s.wrBytes o (bigEndian32 w)).rd (o + 2) = hiByte (loHalf w) ∧
    (s.wrBytes o (bigEndian32 w)).rd (o + 3) = loByte (loHalf w) :=
  ⟨State.rd_wrBytes_inside s o (k := 0) (by simp), State.rd_wrBytes_inside s o (k := 1) (by simp),
   State.rd_wrBytes_inside s o (k := 2) (by simp), State.rd_wrBytes_inside s o (k := 3) (by simp)⟩

/-- A checked command answers a next state: the error, or its effect retired. -/
theorem checked_next {bad : Bool} {s e t : State} :
    checked bad s e = .next t ↔ bad = true ∧ t = s.raise .bounds ∨ bad = false ∧ t = e.retire := by
  cases bad <;> simp [checked, eq_comm]

theorem checked_false (s e : State) : checked false s e = .next e.retire := rfl

theorem checked_of_within {bad : Bool} (h : bad = false) (s e : State) : checked bad s e = .next e.retire := by
  rw [h]; rfl

theorem checked_of_beyond {bad : Bool} (h : bad = true) (s e : State) : checked bad s e = .next (s.raise .bounds) := by
  rw [h]; rfl

end Sys2Proof.Machine
end

