-- ==== Sys2Proof/Laws/Transaction.lean ====
section
/-! SUPPORT. What each engine step can do, said once, and what `XACT`'s acceptance does. -/
namespace Sys2Proof.Machine

theorem State.busy_iff {s : State} : s.busy = true ↔ s.phase ≠ .idle := by simp [State.busy]

theorem State.busy_eq_false {s : State} : s.busy = false ↔ s.phase = .idle := by simp [State.busy]

/-- The bytes of the request, its CRC in place, before and after acceptance (R103, R104). -/
theorem execXact_next {psize : Half} {s t : State} (h : execXact psize s = .next t) :
    ((psize.toNat < 2 ∨ 254 < psize.toNat) ∧ t = s.raise .bounds) ∨
    (2 ≤ psize.toNat ∧ psize.toNat ≤ 254 ∧
      t = ((s.acceptXact psize).appendCrc psize.toNat).emit
        (.txFrame (((s.acceptXact psize).appendCrc psize.toNat).rdFirst (psize.toNat + 2)))) := by
  unfold execXact at h
  split at h
  · next hb =>
    simp only [Bool.or_eq_true, decide_eq_true_eq, beyondBuf_iff] at hb
    exact .inl ⟨by omega, (Host.Outcome.next.inj h).symm⟩
  · next hb =>
    simp only [Bool.or_eq_true, decide_eq_true_eq, beyondBuf_iff, not_or] at hb
    exact .inr ⟨by omega, by omega, (Host.Outcome.next.inj h).symm⟩

theorem execXact_of_range {psize : Half} (h2 : 2 ≤ psize.toNat) (h254 : psize.toNat ≤ 254) (s : State) :
    execXact psize s = .next (((s.acceptXact psize).appendCrc psize.toNat).emit
      (.txFrame (((s.acceptXact psize).appendCrc psize.toNat).rdFirst (psize.toNat + 2)))) := by
  have : (decide (psize.toNat < 2) || beyondBuf psize.toNat 2) = false := by
    simp only [Bool.or_eq_false_iff, decide_eq_false_iff_not, beyondBuf_eq_false]; omega
  rw [execXact, this]; rfl

theorem execXact_out_of_range {psize : Half} (h : psize.toNat < 2 ∨ 254 < psize.toNat) (s : State) :
    execXact psize s = .next (s.raise .bounds) := by
  have : (decide (psize.toNat < 2) || beyondBuf psize.toNat 2) = true := by
    simp only [Bool.or_eq_true, decide_eq_true_eq, beyondBuf_iff]; omega
  rw [execXact, this]; rfl

/-- An engine step in phase `TX`: a byte handed over, a byte not taken, or step 3. -/
theorem stepTx_next {s t : State} (h : stepTx s = .next t) :
    (s.txcnt.toNat < s.psz.toNat + 2 ∧ s.txcnt.toNat < 256 ∧ s.txReadyNow = true ∧ t = s.pastOffer.txByte) ∨
    (s.txcnt.toNat < s.psz.toNat + 2 ∧ s.txcnt.toNat < 256 ∧ s.txReadyNow = false ∧ t = s.pastOffer) ∨
    (s.psz.toNat + 2 ≤ s.txcnt.toNat ∧ t = s.enterRx) := by
  unfold stepTx offerTx at h
  split at h
  · next hlt =>
    split at h
    · next hcap =>
      split at h
      · next hr => exact .inl ⟨hlt, hcap, hr, (Host.Outcome.next.inj h).symm⟩
      · next hr => exact .inr (.inl ⟨hlt, hcap, by simpa using hr, (Host.Outcome.next.inj h).symm⟩)
    · cases h
  · next hge => exact .inr (.inr ⟨by omega, (Host.Outcome.next.inj h).symm⟩)

theorem stepTx_of_ready {s : State} (hlt : s.txcnt.toNat < s.psz.toNat + 2) (hcap : s.txcnt.toNat < 256)
    (hr : s.txReadyNow = true) : stepTx s = .next s.pastOffer.txByte := by
  rw [stepTx, if_pos hlt, offerTx, if_pos (show s.txcnt.toNat < Config.cap from hcap), if_pos hr]

theorem stepTx_of_not_ready {s : State} (hlt : s.txcnt.toNat < s.psz.toNat + 2) (hcap : s.txcnt.toNat < 256)
    (hr : s.txReadyNow = false) : stepTx s = .next s.pastOffer := by
  rw [stepTx, if_pos hlt, offerTx, if_pos (show s.txcnt.toNat < Config.cap from hcap), if_neg (by simp [hr])]

theorem stepTx_of_done {s : State} (h : s.psz.toNat + 2 ≤ s.txcnt.toNat) : stepTx s = .next s.enterRx := by
  rw [stepTx, if_neg (by omega)]

/-- A step in which a read request is outstanding: no answer, a byte received, or a failed read. -/
theorem awaitRx_next {s t : State} (h : awaitRx s = .next t) :
    s.rxcnt.toNat < 256 ∧
      ((s.rxReadyNow = false ∧ t = s.pastWait) ∨
       (s.rxReadyNow = true ∧ (s.answerAt 0).ok = true ∧
         t = (s.pastWait.takeAnswer.storeRx (s.answerAt 0).byte).afterRx) ∨
       (s.rxReadyNow = true ∧ (s.answerAt 0).ok = false ∧ t = s.pastWait.takeAnswer.enterCheck)) := by
  unfold awaitRx at h
  split at h
  · next hcap =>
    refine ⟨hcap, ?_⟩
    split at h
    · next hr =>
      split at h
      · next hok => exact .inr (.inl ⟨hr, hok, (Host.Outcome.next.inj h).symm⟩)
      · next hok => exact .inr (.inr ⟨hr, by simpa using hok, (Host.Outcome.next.inj h).symm⟩)
    · next hr => exact .inl ⟨by simpa using hr, (Host.Outcome.next.inj h).symm⟩
  · cases h

/-- An engine step in phase `RX`: the outstanding answer awaited, a read request issued, or the end of the loop. -/
theorem stepRx_next {s t : State} (h : stepRx s = .next t) :
    (s.awaiting = true ∧ awaitRx s = .next t) ∨
    (s.awaiting = false ∧ s.rxcnt.toNat < s.explen.toNat ∧ s.rxcnt.toNat < 256 ∧ t = s.request) ∨
    (s.awaiting = false ∧ (s.explen.toNat ≤ s.rxcnt.toNat ∨ 256 ≤ s.rxcnt.toNat) ∧ t = s.enterCheck) := by
  unfold stepRx at h
  split at h
  · next ha => exact .inl ⟨ha, h⟩
  · next ha =>
    have ha : s.awaiting = false := by simpa using ha
    split at h
    · next hlt => exact .inr (.inl ⟨ha, hlt.1, hlt.2, (Host.Outcome.next.inj h).symm⟩)
    · next hge =>
      refine .inr (.inr ⟨ha, ?_, (Host.Outcome.next.inj h).symm⟩)
      rw [show Config.cap = 256 from rfl] at hge
      omega

theorem stepRx_of_request {s : State} (ha : s.awaiting = false) (he : s.rxcnt.toNat < s.explen.toNat)
    (hc : s.rxcnt.toNat < 256) : stepRx s = .next s.request := by
  rw [stepRx, if_neg (by simp [ha]), if_pos ⟨he, hc⟩]

theorem stepRx_of_end {s : State} (ha : s.awaiting = false)
    (h : s.explen.toNat ≤ s.rxcnt.toNat ∨ 256 ≤ s.rxcnt.toNat) : stepRx s = .next s.enterCheck := by
  rw [stepRx, if_neg (by simp [ha]), if_neg]
  rw [show Config.cap = 256 from rfl]
  omega

theorem stepRx_of_wait {s : State} (ha : s.awaiting = true) (hc : s.rxcnt.toNat < 256) (hr : s.rxReadyNow = false) :
    stepRx s = .next s.pastWait := by
  rw [stepRx, if_pos ha, awaitRx, if_pos (show s.rxcnt.toNat < Config.cap from hc), if_neg (by simp [hr])]

theorem stepRx_of_ok {s : State} (ha : s.awaiting = true) (hc : s.rxcnt.toNat < 256) (hr : s.rxReadyNow = true)
    (hok : (s.answerAt 0).ok = true) :
    stepRx s = .next (s.pastWait.takeAnswer.storeRx (s.answerAt 0).byte).afterRx := by
  rw [stepRx, if_pos ha, awaitRx, if_pos (show s.rxcnt.toNat < Config.cap from hc), if_pos hr, if_pos hok]

theorem stepRx_of_fail {s : State} (ha : s.awaiting = true) (hc : s.rxcnt.toNat < 256) (hr : s.rxReadyNow = true)
    (hok : (s.answerAt 0).ok = false) : stepRx s = .next s.pastWait.takeAnswer.enterCheck := by
  rw [stepRx, if_pos ha, awaitRx, if_pos (show s.rxcnt.toNat < Config.cap from hc), if_pos hr, if_neg (by simp [hok])]

/-- Answers: issuing a request and waiting use none up, taking one moves to the next, and reset keeps them (R151, R161). -/
theorem State.answerAt_takeAnswer (s : State) (k : Nat) : s.takeAnswer.answerAt k = s.answerAt (k + 1) := by
  unfold State.answerAt
  simp [List.getElem?_tail, Nat.add_assoc, Nat.add_comm 1 k]

@[simp] theorem State.answerAt_request (s : State) (k : Nat) : s.request.answerAt k = s.answerAt k := rfl

@[simp] theorem State.answerAt_pastWait (s : State) (k : Nat) : s.pastWait.answerAt k = s.answerAt k := rfl

@[simp] theorem State.answerAt_afterReset (s : State) (k : Nat) : s.afterReset.answerAt k = s.answerAt k := rfl

/-- The rules after a received byte, by its place (R109 to R111). -/
theorem State.afterRx_cases (s : State) :
    (s.rxcnt = 2 ∧ s.afterRx = s.secondByte) ∨ (s.rxcnt = 3 ∧ s.afterRx = s.thirdByte) ∨
    (s.rxcnt ≠ 2 ∧ s.rxcnt ≠ 3 ∧ s.afterRx = s) := by
  by_cases h2 : s.rxcnt = 2
  · exact .inl ⟨h2, by rw [State.afterRx, if_pos h2]⟩
  · by_cases h3 : s.rxcnt = 3
    · exact .inr (.inl ⟨h3, by rw [State.afterRx, if_neg h2, if_pos h3]⟩)
    · exact .inr (.inr ⟨h2, h3, by rw [State.afterRx, if_neg h2, if_neg h3]⟩)

/-- What the rules after a received byte leave alone. -/
@[simp] theorem State.afterRx_fields (s : State) :
    s.afterRx.buf = s.buf ∧ s.afterRx.res = s.res ∧ s.afterRx.phase = s.phase ∧ s.afterRx.valid = s.valid ∧
    s.afterRx.result = s.result ∧ s.afterRx.rxcnt = s.rxcnt ∧ s.afterRx.cause = s.cause ∧ s.afterRx.sticky = s.sticky ∧
    s.afterRx.crcreg = s.crcreg ∧ s.afterRx.reqfc = s.reqfc ∧ s.afterRx.psz = s.psz ∧ s.afterRx.txcnt = s.txcnt ∧
    s.afterRx.awaiting = s.awaiting ∧ s.afterRx.cmds = s.cmds ∧ s.afterRx.txReady = s.txReady ∧
    s.afterRx.rxAns = s.rxAns ∧ s.afterRx.rxReady = s.rxReady ∧ s.afterRx.resetIn = s.resetIn ∧ s.afterRx.bus = s.bus ∧ s.afterRx.trace = s.trace ∧
    s.afterRx.timeoutMs = s.timeoutMs ∧ s.afterRx.epoch = s.epoch ∧ s.afterRx.reads = s.reads ∧
    s.afterRx.tick = s.tick := by
  rcases s.afterRx_cases with ⟨-, h⟩ | ⟨-, h⟩ | ⟨-, -, h⟩ <;> rw [h] <;> and_intros <;> rfl

@[simp] theorem State.rd_afterRx (s : State) (i : Nat) : s.afterRx.rd i = s.rd i :=
  State.rd_congr (by simp) (by simp) i

/-- An engine step in phase `CHECK`: the result of a size mismatch, or that of a complete response. -/
theorem stepCheck_next {s t : State} (h : stepCheck s = .next t) :
    (s.rxcnt.toNat ≤ 256 ∧ s.rxcnt ≠ s.explen ∧ t = s.finish .sizeMismatch) ∨
    (2 ≤ s.rxcnt.toNat ∧ s.rxcnt.toNat ≤ 256 ∧ s.rxcnt = s.explen ∧
      t = (s.crcOver (s.rxcnt.toNat - 2)).finish
        (errorMapper true (crc16 (s.rdFirst (s.rxcnt.toNat - 2)) == s.frameCrc s.rxcnt.toNat) s.excf s.excode)) := by
  unfold stepCheck at h
  simp only [show Config.cap = 256 from rfl] at h
  split at h
  · cases h
  · next hcap =>
    split at h
    · next hne => exact .inl ⟨by omega, hne, (Host.Outcome.next.inj h).symm⟩
    · next heq =>
      split at h
      · cases h
      · next h2 => exact .inr ⟨by omega, by omega, by simpa using heq, (Host.Outcome.next.inj h).symm⟩

theorem stepCheck_of_ne {s : State} (hcap : s.rxcnt.toNat ≤ 256) (hne : s.rxcnt ≠ s.explen) :
    stepCheck s = .next (s.finish .sizeMismatch) := by
  unfold stepCheck
  simp only [show Config.cap = 256 from rfl]
  rw [if_neg (by omega), if_pos hne]
  rfl

theorem stepCheck_of_eq {s : State} (h2 : 2 ≤ s.rxcnt.toNat) (hcap : s.rxcnt.toNat ≤ 256) (heq : s.rxcnt = s.explen) :
    stepCheck s = .next ((s.crcOver (s.rxcnt.toNat - 2)).finish
      (errorMapper true (crc16 (s.rdFirst (s.rxcnt.toNat - 2)) == s.frameCrc s.rxcnt.toNat) s.excf s.excode)) := by
  unfold stepCheck
  simp only [show Config.cap = 256 from rfl]
  rw [if_neg (by omega), if_neg (by simpa using heq), if_neg (by omega)]
  rfl

/-- The ErrorMapper's four answers (R117, R135). -/
theorem errorMapper_cases (sizeOk crcOk excf : Bool) (excode : Byte) :
    (sizeOk = false ∧ errorMapper sizeOk crcOk excf excode = .sizeMismatch) ∨
    (sizeOk = true ∧ crcOk = false ∧ errorMapper sizeOk crcOk excf excode = .crcMismatch) ∨
    (sizeOk = true ∧ crcOk = true ∧ excf = true ∧ errorMapper sizeOk crcOk excf excode = .slaveException excode) ∨
    (sizeOk = true ∧ crcOk = true ∧ excf = false ∧ errorMapper sizeOk crcOk excf excode = .ok) := by
  cases sizeOk <;> cases crcOk <;> cases excf <;> simp [errorMapper]

theorem resultKind_toBits (r : ModbusResult) : resultKind r.toBits = r.kind := by
  refine BitVec.eq_of_getLsbD_eq fun i hi => ?_
  simp only [resultKind, ModbusResult.toBits, BitVec.getLsbD_extractLsb', BitVec.getLsbD_append]
  simp [hi]

theorem resultCode_toBits (r : ModbusResult) : resultCode r.toBits = r.code := by
  refine BitVec.eq_of_getLsbD_eq fun i hi => ?_
  simp only [resultCode, ModbusResult.toBits, BitVec.getLsbD_extractLsb', BitVec.getLsbD_append]
  simp [hi]

theorem toBits_toNat (r : ModbusResult) : r.toBits.toNat = r.kind.toNat * 256 + r.code.toNat := by
  rw [ModbusResult.toBits, toNat_append, toNat_append]
  simp

end Sys2Proof.Machine
end

