-- ==== Sys2Proof/Laws/Step.lean ====
section
/-! SUPPORT. What one step of the machine can do, said once. -/
namespace Sys2Proof.Machine

theorem step_of_reset {s : State} (h : s.resetNow = true) : step s = .next s.pastReset.afterReset := by
  rw [step, if_pos h]

theorem step_of_idle {s : State} (h : s.resetNow = false) (hi : s.phase = .idle) : step s = stepIdle s.pastReset := by
  rw [step, if_neg (by simp [h]), stepRunning, if_neg]
  simpa [State.busy] using hi

theorem step_of_busy {s : State} (h : s.resetNow = false) (hb : s.phase ≠ .idle) : step s = stepEngine s.pastReset := by
  rw [step, if_neg (by simp [h]), stepRunning, if_pos]
  simpa [State.busy] using hb

theorem step_of_tx {s : State} (h : s.resetNow = false) (hp : s.phase = .tx) : step s = stepTx s.pastReset.countBusy := by
  rw [step_of_busy h (by simp [hp]), stepEngine, show s.pastReset.phase = .tx from hp]

theorem step_of_rx {s : State} (h : s.resetNow = false) (hp : s.phase = .rx) : step s = stepRx s.pastReset.countBusy := by
  rw [step_of_busy h (by simp [hp]), stepEngine, show s.pastReset.phase = .rx from hp]

theorem step_of_check {s : State} (h : s.resetNow = false) (hp : s.phase = .check) :
    step s = stepCheck s.pastReset.countBusy := by
  rw [step_of_busy h (by simp [hp]), stepEngine, show s.pastReset.phase = .check from hp]

theorem step_of_no_command {s : State} (h : s.resetNow = false) (hi : s.phase = .idle) (hc : s.cmds = []) :
    step s = .next s.pastReset := by
  rw [step_of_idle h hi, stepIdle, show s.pastReset.cmds = [] from hc]

theorem step_of_presents {s : State} {w : CmdWord} {rest : List CmdWord} (h : s.Presents w rest) :
    step s = accept w (s.taken rest) := by
  rw [step_of_idle h.2.1 h.1, stepIdle, show s.pastReset.cmds = w :: rest from h.2.2]
  rfl

theorem accept_cmd {w : CmdWord} {i : Instr} (h : decode w = .cmd i) (s : State) : accept w s = exec i s := by
  rw [accept, h]

theorem accept_rsvd {w : CmdWord} (h : decode w = .rsvd) (s : State) : accept w s = .next (s.raise .rsvd) := by
  rw [accept, h]

theorem accept_illop {w : CmdWord} (h : decode w = .illop) (s : State) : accept w s = .next (s.raise .illop) := by
  rw [accept, h]

/-- Every step that answers a next state is one of these: a reset, nothing pending, a word accepted, an engine step. -/
theorem step_next {s t : State} (h : step s = .next t) :
    (s.resetNow = true ∧ t = s.pastReset.afterReset) ∨
    (s.resetNow = false ∧ s.phase = .idle ∧ s.cmds = [] ∧ t = s.pastReset) ∨
    (∃ w rest, s.Presents w rest ∧ accept w (s.taken rest) = .next t) ∨
    (s.resetNow = false ∧ s.phase = .tx ∧ stepTx s.pastReset.countBusy = .next t) ∨
    (s.resetNow = false ∧ s.phase = .rx ∧ stepRx s.pastReset.countBusy = .next t) ∨
    (s.resetNow = false ∧ s.phase = .check ∧ stepCheck s.pastReset.countBusy = .next t) := by
  cases hr : s.resetNow with
  | true => exact .inl ⟨rfl, (Host.Outcome.next.inj ((step_of_reset hr).symm.trans h)).symm⟩
  | false =>
    cases hp : s.phase with
    | idle =>
      cases hc : s.cmds with
      | nil => exact .inr (.inl ⟨rfl, rfl, rfl, (Host.Outcome.next.inj ((step_of_no_command hr hp hc).symm.trans h)).symm⟩)
      | cons w rest => exact .inr (.inr (.inl ⟨w, rest, ⟨hp, hr, hc⟩, (step_of_presents ⟨hp, hr, hc⟩).symm.trans h⟩))
    | tx => exact .inr (.inr (.inr (.inl ⟨rfl, rfl, (step_of_tx hr hp).symm.trans h⟩)))
    | rx => exact .inr (.inr (.inr (.inr (.inl ⟨rfl, rfl, (step_of_rx hr hp).symm.trans h⟩))))
    | check => exact .inr (.inr (.inr (.inr (.inr ⟨rfl, rfl, (step_of_check hr hp).symm.trans h⟩))))

/-- The word that `withFetchWord` places is the one the very next step accepts. -/
theorem step_withFetchWord (s : State) (nbits w : Nat) :
    step (s.withFetchWord nbits w) = accept (tableWord nbits w) { s with phase := .idle } := by
  rw [step_of_presents (w := tableWord nbits w) (rest := s.cmds) ⟨rfl, by simp [State.resetNow, State.withFetchWord], rfl⟩]
  rfl

end Sys2Proof.Machine
end

