-- ==== Sys2Proof/Laws/Exec.lean ====
section
/-! SUPPORT. Each command's meaning as the shared operation it is, and what a finished command can be. -/
namespace Sys2Proof.Machine

theorem exec_stb (off byte : Byte) (s : State) : exec (.stb off byte) s = checked false s (s.wr off.toNat byte) := rfl

theorem exec_ldb (off : Byte) (s : State) :
    exec (.ldb off) s = checked false s (s.setRes ((s.rd off.toNat).setWidth 32)) := rfl

theorem exec_enc16 (off : Byte) (value : Half) (s : State) :
    exec (.enc16 off value) s = checked (beyondBuf off.toNat 2) s (s.wrBytes off.toNat (bigEndian16 value)) := rfl

theorem exec_enc32 (off : Byte) (value : Word) (s : State) :
    exec (.enc32 off value) s = checked (beyondBuf off.toNat 4) s (s.wrBytes off.toNat (bigEndian32 value)) := rfl

theorem exec_dec16 (off : Byte) (s : State) :
    exec (.dec16 off) s = checked (beyondBuf off.toNat 2) s (s.setRes ((s.rd16 off.toNat).setWidth 32)) := rfl

theorem exec_dec32 (off : Byte) (s : State) :
    exec (.dec32 off) s = checked (beyondBuf off.toNat 4) s (s.setRes (s.rd32 off.toNat)) := rfl

theorem exec_crcGen (len : Half) (s : State) :
    exec (.crcGen len) s = checked (beyondBuf len.toNat 0) s
      ((s.crcOver len.toNat).setRes ((s.crcOver len.toNat).crcreg.setWidth 32)) := rfl

theorem exec_crcApp (len : Half) (s : State) :
    exec (.crcApp len) s = checked (beyondBuf len.toNat 2) s
      ((s.appendCrc len.toNat).setRes ((s.appendCrc len.toNat).crcreg.setWidth 32)) := rfl

theorem exec_crcChk (len : Half) (s : State) :
    exec (.crcChk len) s = checked (len.toNat < 2 || beyondBuf len.toNat 0) s
      ((s.crcOver (len.toNat - 2)).setRes
        (if (s.crcOver (len.toNat - 2)).crcreg = s.frameCrc len.toNat then 1 else 0)) := rfl

theorem exec_bldRh (addr : Byte) (start count : Half) (s : State) :
    exec (.bldRh addr start count) s =
      checked false s ((s.wrBytes 0 (requestHeader addr 0x03#8 start count)).setRes 6) := rfl

theorem exec_bldRi (addr : Byte) (start count : Half) (s : State) :
    exec (.bldRi addr start count) s =
      checked false s ((s.wrBytes 0 (requestHeader addr 0x04#8 start count)).setRes 6) := rfl

theorem exec_bldWm (addr : Byte) (start count : Half) (s : State) :
    exec (.bldWm addr start count) s = checked (beyondBuf (7 + 2 * count.toNat) 2) s
      ((s.wrBytes 0 (requestHeader addr 0x10#8 start count ++ [.ofNat 8 (2 * count.toNat)])).setRes
        (.ofNat 32 (7 + 2 * count.toNat))) := rfl

theorem exec_xact (psize : Half) (s : State) : exec (.xact psize) s = execXact psize s := rfl

@[simp] theorem requestHeader_length (addr fc : Byte) (start count : Half) :
    (requestHeader addr fc start count).length = 6 := rfl

/-- The six header bytes, where the builders put them (R91). -/
theorem State.rd_requestHeader (s : State) (addr fc : Byte) (start count : Half) (more : List Byte) :
    let t := s.wrBytes 0 (requestHeader addr fc start count ++ more)
    t.rd 0 = addr ∧ t.rd 1 = fc ∧ t.rd 2 = hiByte start ∧ t.rd 3 = loByte start ∧ t.rd 4 = hiByte count ∧
    t.rd 5 = loByte count := by
  intro t
  have h : ∀ k, k < 6 → k < (requestHeader addr fc start count ++ more).length := fun k hk => by
    rw [List.length_append, requestHeader_length]; omega
  have g : ∀ k (hk : k < 6), t.rd k = (requestHeader addr fc start count ++ more)[k]'(h k hk) := fun k hk => by
    have := State.rd_wrBytes_inside s 0 (h k hk)
    rwa [Nat.zero_add] at this
  exact ⟨g 0 (by omega), g 1 (by omega), g 2 (by omega), g 3 (by omega), g 4 (by omega), g 5 (by omega)⟩

/-- What a command other than `XACT` does, said once: the error, or a state that differs from the one before in `BUF`
within `BUF`'s form, `RES`, `CRCREG` and `CAUSE` alone. -/
theorem exec_next {i : Instr} {s t : State} (hx : ∀ psize, i ≠ .xact psize) (h : exec i s = .next t) :
    t = s.raise .bounds ∨
    ∃ (m : Memory) (v : Word) (c : BitVec 16), (Memory.wf s.buf → Memory.wf m) ∧
      t = { s with buf := m, res := v, crcreg := c, cause := 0 } := by
  have w : ∀ (base : Nat) (bs : List Byte), base + bs.length ≤ 256 → Memory.wf s.buf →
      Memory.wf (Memory.storeBytes s.buf base bs) := fun base bs hb hw => Memory.storeBytes_wf hw hb
  cases i with
  | stb off byte =>
    rw [exec_stb] at h
    rcases checked_next.1 h with ⟨-, e⟩ | ⟨-, e⟩
    · exact .inl e
    · exact .inr ⟨_, _, _, fun hw => Memory.store_wf hw off.isLt byte, e⟩
  | ldb off =>
    rw [exec_ldb] at h
    rcases checked_next.1 h with ⟨-, e⟩ | ⟨-, e⟩
    · exact .inl e
    · exact .inr ⟨_, _, _, id, e⟩
  | enc16 off value =>
    rcases checked_next.1 h with ⟨-, e⟩ | ⟨hb, e⟩
    · exact .inl e
    · exact .inr ⟨_, _, _, w _ _ (beyondBuf_eq_false.1 hb), e⟩
  | enc32 off value =>
    rcases checked_next.1 h with ⟨-, e⟩ | ⟨hb, e⟩
    · exact .inl e
    · exact .inr ⟨_, _, _, w _ _ (beyondBuf_eq_false.1 hb), e⟩
  | dec16 off =>
    rcases checked_next.1 h with ⟨-, e⟩ | ⟨-, e⟩
    · exact .inl e
    · exact .inr ⟨_, _, _, id, e⟩
  | dec32 off =>
    rcases checked_next.1 h with ⟨-, e⟩ | ⟨-, e⟩
    · exact .inl e
    · exact .inr ⟨_, _, _, id, e⟩
  | crcGen len =>
    rcases checked_next.1 h with ⟨-, e⟩ | ⟨-, e⟩
    · exact .inl e
    · exact .inr ⟨_, _, _, id, e⟩
  | crcApp len =>
    rcases checked_next.1 h with ⟨-, e⟩ | ⟨hb, e⟩
    · exact .inl e
    · exact .inr ⟨_, _, _, w _ _ (beyondBuf_eq_false.1 hb), e⟩
  | crcChk len =>
    rcases checked_next.1 h with ⟨-, e⟩ | ⟨-, e⟩
    · exact .inl e
    · exact .inr ⟨_, _, _, id, e⟩
  | bldRh addr start count =>
    rw [exec_bldRh] at h
    rcases checked_next.1 h with ⟨-, e⟩ | ⟨-, e⟩
    · exact .inl e
    · exact .inr ⟨_, _, _, w 0 _ (by simp), e⟩
  | bldRi addr start count =>
    rw [exec_bldRi] at h
    rcases checked_next.1 h with ⟨-, e⟩ | ⟨-, e⟩
    · exact .inl e
    · exact .inr ⟨_, _, _, w 0 _ (by simp), e⟩
  | bldWm addr start count =>
    rcases checked_next.1 h with ⟨-, e⟩ | ⟨-, e⟩
    · exact .inl e
    · exact .inr ⟨_, _, _, w 0 _ (by simp), e⟩
  | xact psize => exact absurd rfl (hx psize)

/-- Every command answers a next state, from every state. -/
theorem exec_total (i : Instr) (s : State) : ∃ t, exec i s = .next t := by
  have hc : ∀ (bad : Bool) (e : State), ∃ t, checked bad s e = .next t := fun bad e => by
    cases bad <;> exact ⟨_, rfl⟩
  cases i with
  | xact psize =>
    by_cases h : psize.toNat < 2 ∨ 254 < psize.toNat
    · exact ⟨_, execXact_out_of_range h s⟩
    · exact ⟨_, execXact_of_range (by omega) (by omega) s⟩
  | stb off byte => exact exec_stb off byte s ▸ hc _ _
  | ldb off => exact exec_ldb off s ▸ hc _ _
  | bldRh addr start count => exact exec_bldRh addr start count s ▸ hc _ _
  | bldRi addr start count => exact exec_bldRi addr start count s ▸ hc _ _
  | _ => exact hc _ _

/-- Every word accepted answers a next state, from every state. -/
theorem accept_total (w : CmdWord) (s : State) : ∃ t, accept w s = .next t := by
  cases h : decode w with
  | cmd i => exact (accept_cmd h s).symm ▸ exec_total i s
  | rsvd => exact ⟨_, accept_rsvd h s⟩
  | illop => exact ⟨_, accept_illop h s⟩

/-- What accepting a word can do, said once: a command error, a finished command, or an `XACT` begun. -/
theorem accept_next {w : CmdWord} {s t : State} (h : accept w s = .next t) :
    (∃ e, t = s.raise e) ∨
    (∃ (m : Memory) (v : Word) (c : BitVec 16), (Memory.wf s.buf → Memory.wf m) ∧
      t = { s with buf := m, res := v, crcreg := c, cause := 0 }) ∨
    (∃ psize : Half, 2 ≤ psize.toNat ∧ psize.toNat ≤ 254 ∧
      t = ((s.acceptXact psize).appendCrc psize.toNat).emit
        (.txFrame (((s.acceptXact psize).appendCrc psize.toNat).rdFirst (psize.toNat + 2)))) := by
  cases hd : decode w with
  | rsvd => exact .inl ⟨_, (Host.Outcome.next.inj ((accept_rsvd hd s).symm.trans h)).symm⟩
  | illop => exact .inl ⟨_, (Host.Outcome.next.inj ((accept_illop hd s).symm.trans h)).symm⟩
  | cmd i =>
    rw [accept_cmd hd] at h
    by_cases hx : ∃ psize, i = .xact psize
    · obtain ⟨psize, rfl⟩ := hx
      rcases execXact_next h with ⟨-, e⟩ | ⟨h2, h254, e⟩
      · exact .inl ⟨_, e⟩
      · exact .inr (.inr ⟨psize, h2, h254, e⟩)
    · rcases exec_next (fun psize e => hx ⟨psize, e⟩) h with e | e
      · exact .inl ⟨_, e⟩
      · exact .inr (.inl e)

end Sys2Proof.Machine
end

