-- ==== Sys2Proof/Laws/PerInstr.lean ====
section
/-! SUPPORT. Per-command lemmas: the encoder's word is covered by the command's own row of the opcode map (R53). -/
namespace Sys2Proof.Laws

/-- The place of a command's row in `opcodeRows`. -/
def rowIndex : Instr → Nat
  | .stb _ _ => 0
  | .ldb _ => 1
  | .enc16 _ _ => 2
  | .enc32 _ _ => 3
  | .dec16 _ => 4
  | .dec32 _ => 5
  | .crcGen _ => 6
  | .crcApp _ => 7
  | .crcChk _ => 8
  | .bldRh _ _ _ => 9
  | .bldRi _ _ _ => 10
  | .bldWm _ _ _ => 11
  | .xact _ => 12

/-- A mask and a pattern packed field by field cover a packed word field by field. -/
theorem and_packFields (o a o' a' : Byte) (b c b' c' : Half) :
    packFields o a b c &&& packFields o' a' b' c' = packFields (o &&& o') (a &&& a') (b &&& b') (c &&& c') := by
  refine BitVec.eq_of_getLsbD_eq fun i hi => ?_
  simp only [packFields, BitVec.getLsbD_and, BitVec.getLsbD_append]
  split
  · rfl
  · split
    · rfl
    · split <;> rfl

theorem and_allOnes8 (x : Byte) : x &&& 0xFF#8 = x := BitVec.and_allOnes
theorem and_allOnes16 (x : Half) : x &&& 0xFFFF#16 = x := BitVec.and_allOnes

end Sys2Proof.Laws

namespace Sys2Proof.Laws.EncodedRow

/-- The encoder's word of `i` is covered by the row of `i` in R53's opcode map. -/
def Statement (i : Instr) : Prop := ∃ r, opcodeRows[rowIndex i]? = some r ∧ r.covers (encode i) = true

theorem stb (off byte : Byte) : Statement (.stb off byte) := by
  have hz : (0#8 ++ byte : Half) &&& (0xFF00 : Half) = 0 := by
    refine BitVec.eq_of_getLsbD_eq fun i hi => ?_
    rw [BitVec.getLsbD_and, BitVec.getLsbD_append]
    split
    · interval_cases i <;> simp
    · simp
  refine ⟨_, rfl, beq_iff_eq.2 ?_⟩
  rw [encode, show (0xFF00FFFFFF00#48 : CmdWord) = packFields 0xFF 0 0xFFFF 0xFF00 from rfl, and_packFields, hz]
  simp [packFields]

theorem ldb (off : Byte) : Statement (.ldb off) := by
  refine ⟨_, rfl, beq_iff_eq.2 ?_⟩
  rw [encode, show (0xFF00FFFFFFFF#48 : CmdWord) = packFields 0xFF 0 0xFFFF 0xFFFF from rfl, and_packFields]
  simp [packFields]

theorem enc16 (off : Byte) (value : Half) : Statement (.enc16 off value) := by
  refine ⟨_, rfl, beq_iff_eq.2 ?_⟩
  rw [encode, show (0xFF00FFFF0000#48 : CmdWord) = packFields 0xFF 0 0xFFFF 0 from rfl, and_packFields]
  simp [packFields]

theorem enc32 (off : Byte) (value : Word) : Statement (.enc32 off value) := by
  refine ⟨_, rfl, beq_iff_eq.2 ?_⟩
  rw [encode, show (0xFF0000000000#48 : CmdWord) = packFields 0xFF 0 0 0 from rfl, and_packFields]
  simp [packFields]

theorem dec16 (off : Byte) : Statement (.dec16 off) := by
  refine ⟨_, rfl, beq_iff_eq.2 ?_⟩
  rw [encode, show (0xFF00FFFFFFFF#48 : CmdWord) = packFields 0xFF 0 0xFFFF 0xFFFF from rfl, and_packFields]
  simp [packFields]

theorem dec32 (off : Byte) : Statement (.dec32 off) := by
  refine ⟨_, rfl, beq_iff_eq.2 ?_⟩
  rw [encode, show (0xFF00FFFFFFFF#48 : CmdWord) = packFields 0xFF 0 0xFFFF 0xFFFF from rfl, and_packFields]
  simp [packFields]

theorem crcGen (len : Half) : Statement (.crcGen len) := by
  refine ⟨_, rfl, beq_iff_eq.2 ?_⟩
  rw [encode, show (0xFFFFFFFF0000#48 : CmdWord) = packFields 0xFF 0xFF 0xFFFF 0 from rfl, and_packFields]
  simp [packFields]

theorem crcApp (len : Half) : Statement (.crcApp len) := by
  refine ⟨_, rfl, beq_iff_eq.2 ?_⟩
  rw [encode, show (0xFFFFFFFF0000#48 : CmdWord) = packFields 0xFF 0xFF 0xFFFF 0 from rfl, and_packFields]
  simp [packFields]

theorem crcChk (len : Half) : Statement (.crcChk len) := by
  refine ⟨_, rfl, beq_iff_eq.2 ?_⟩
  rw [encode, show (0xFFFFFFFF0000#48 : CmdWord) = packFields 0xFF 0xFF 0xFFFF 0 from rfl, and_packFields]
  simp [packFields]

theorem bldRh (addr : Byte) (start count : Half) : Statement (.bldRh addr start count) := by
  refine ⟨_, rfl, beq_iff_eq.2 ?_⟩
  rw [encode, show (0xFF0000000000#48 : CmdWord) = packFields 0xFF 0 0 0 from rfl, and_packFields]
  simp [packFields]

theorem bldRi (addr : Byte) (start count : Half) : Statement (.bldRi addr start count) := by
  refine ⟨_, rfl, beq_iff_eq.2 ?_⟩
  rw [encode, show (0xFF0000000000#48 : CmdWord) = packFields 0xFF 0 0 0 from rfl, and_packFields]
  simp [packFields]

theorem bldWm (addr : Byte) (start count : Half) : Statement (.bldWm addr start count) := by
  refine ⟨_, rfl, beq_iff_eq.2 ?_⟩
  rw [encode, show (0xFF0000000000#48 : CmdWord) = packFields 0xFF 0 0 0 from rfl, and_packFields]
  simp [packFields]

theorem xact (psize : Half) : Statement (.xact psize) := by
  refine ⟨_, rfl, beq_iff_eq.2 ?_⟩
  rw [encode, show (0xFFFFFFFF0000#48 : CmdWord) = packFields 0xFF 0xFF 0xFFFF 0 from rfl, and_packFields]
  simp [packFields]

end Sys2Proof.Laws.EncodedRow
end

