-- ==== Sys2Proof/Tests/Slice0.lean ====
section
/-! SUPPORT. The model's own tests: the well-formedness checks, words written out from the spec's encodings, one step per
command on the spec's vectors (95_test_vectors.md), and a witness for the hypotheses of every statement that has any. -/
namespace Sys2Proof.Tests
open Sys2Proof.Machine

/-! ### Well-formedness: each check refuses an ill-formed term and takes its boundary -/

theorem test_wf_refuses_codec : (Instr.enc16 255#8 0).wellFormed = false ∧ (Instr.enc32 253#8 0).wellFormed = false ∧
    (Instr.dec16 255#8).wellFormed = false ∧ (Instr.dec32 253#8).wellFormed = false := by decide

theorem test_wf_takes_codec : (Instr.enc16 254#8 0).wellFormed = true ∧ (Instr.enc32 252#8 0).wellFormed = true ∧
    (Instr.dec16 254#8).wellFormed = true ∧ (Instr.dec32 252#8).wellFormed = true ∧
    (Instr.stb 255#8 0).wellFormed = true ∧ (Instr.ldb 255#8).wellFormed = true := by decide

theorem test_wf_refuses_lengths : (Instr.crcGen 257#16).wellFormed = false ∧ (Instr.crcApp 255#16).wellFormed = false ∧
    (Instr.crcChk 1#16).wellFormed = false ∧ (Instr.crcChk 257#16).wellFormed = false ∧
    (Instr.bldWm 1#8 0 124#16).wellFormed = false ∧ (Instr.xact 1#16).wellFormed = false ∧
    (Instr.xact 255#16).wellFormed = false := by decide

theorem test_wf_takes_lengths : (Instr.crcGen 256#16).wellFormed = true ∧ (Instr.crcApp 254#16).wellFormed = true ∧
    (Instr.crcChk 2#16).wellFormed = true ∧ (Instr.crcChk 256#16).wellFormed = true ∧
    (Instr.bldWm 1#8 0 123#16).wellFormed = true ∧ (Instr.bldRh 0 0 0xFFFF#16).wellFormed = true ∧
    (Instr.bldRi 0 0 0xFFFF#16).wellFormed = true ∧ (Instr.xact 2#16).wellFormed = true ∧
    (Instr.xact 254#16).wellFormed = true := by decide

theorem test_asm_refuses_wide_operands :
    [AsmLine.mk .stb [256, 0], ⟨.stb, [0, 256]⟩, ⟨.ldb, [256]⟩, ⟨.enc16, [256, 0]⟩, ⟨.enc16, [0, 65536]⟩,
     ⟨.enc32, [256, 0]⟩, ⟨.enc32, [0, 4294967296]⟩, ⟨.dec16, [256]⟩, ⟨.dec32, [256]⟩, ⟨.crcGen, [65536]⟩,
     ⟨.crcApp, [65536]⟩, ⟨.crcChk, [65536]⟩, ⟨.bldRh, [256, 0, 0]⟩, ⟨.bldRi, [0, 65536, 0]⟩, ⟨.bldWm, [0, 0, 65536]⟩,
     ⟨.xact, [65536]⟩, ⟨.xactW, [32765]⟩, ⟨.streg, [125, 0]⟩, ⟨.streg, [0, 65536]⟩, ⟨.ldreg, [127]⟩,
     ⟨.ldreg32, [127]⟩].map AsmLine.wellFormed = List.replicate 21 false := by decide

theorem test_asm_refuses_wrong_operand_count :
    [AsmLine.mk .stb [0], ⟨.ldb, []⟩, ⟨.xactR, [6]⟩, ⟨.bldRh, [0, 0]⟩].map AsmLine.wellFormed =
      List.replicate 4 false := by decide

theorem test_asm_takes_boundaries :
    [AsmLine.mk .stb [255, 255], ⟨.enc32, [255, 4294967295]⟩, ⟨.xactW, [32764]⟩, ⟨.streg, [124, 65535]⟩,
     ⟨.ldreg, [126]⟩, ⟨.ldreg32, [126]⟩].map AsmLine.wellFormed = List.replicate 6 true := by decide

/-! ### Words written out from R50, R53 (the words of 95_test_vectors.md) -/

theorem test_decode_codec_words :
    decode 0x0105000000AB#48 = .cmd (.stb 5#8 0xAB#8) ∧ decode 0x020500000000#48 = .cmd (.ldb 5#8) ∧
    decode 0x030300001234#48 = .cmd (.enc16 3#8 0x1234#16) ∧
    decode 0x04FC12345678#48 = .cmd (.enc32 252#8 0x12345678#32) ∧ decode 0x05FC00000000#48 = .cmd (.dec16 252#8) ∧
    decode 0x06FC00000000#48 = .cmd (.dec32 252#8) := by decide

theorem test_decode_crc_words :
    decode 0x100000000100#48 = .cmd (.crcGen 256#16) ∧ decode 0x1100000000FE#48 = .cmd (.crcApp 254#16) ∧
    decode 0x120000000008#48 = .cmd (.crcChk 8#16) := by decide

theorem test_decode_builder_and_xact_words :
    decode 0x20F7ABCD007D#48 = .cmd (.bldRh 0xF7#8 0xABCD#16 0x7D#16) ∧
    decode 0x2101FFFFFFFF#48 = .cmd (.bldRi 1#8 0xFFFF#16 0xFFFF#16) ∧
    decode 0x22100000007B#48 = .cmd (.bldWm 0x10#8 0 123#16) ∧ decode 0x3000000000FE#48 = .cmd (.xact 254#16) := by
  decide

/-- V-ERR-1 to V-ERR-6, V-COD-16 to V-COD-18, V-CRC-17, V-X-24. -/
theorem test_decode_errors :
    [0x000000000000#48, 0x070000000000#48, 0xFF1234567890#48, 0x310000000000#48].map decode =
      List.replicate 4 .illop ∧
    [0x050300000001#48, 0x010500010000#48, 0x010500000100#48, 0x020500000001#48, 0x05FF00000001#48, 0x100100000006#48,
     0x300000010006#48].map decode = List.replicate 7 .rsvd := by decide

theorem test_encode_words :
    encode (.enc32 7#8 0xDEADBEEF#32) = 0x0407DEADBEEF#48 ∧ encode (.bldWm 0x10#8 33#16 2#16) = 0x221000210002#48 ∧
    encode (.stb 6#8 4#8) = 0x010600000004#48 ∧ encode (.xact 11#16) = 0x30000000000B#48 := by decide

theorem test_opcode_rows_do_not_overlap :
    opcodeRows.Pairwise (fun r q => fieldOp r.pattern ≠ fieldOp q.pattern) ∧
    ∀ r ∈ opcodeRows, fieldOp r.mask = 0xFF#8 := by decide

theorem test_decodeTableWord : decodeTableWord 48 0x220000000000 = some (.bldWm 0 0 0) ∧
    decodeTableWord 48 0x070000000000 = none ∧ decodeTableWord 48 0x050000000001 = none := by decide

/-! ### One step per command -/

/-- A block with those bytes from index `base`. -/
def withBytes (base : Nat) (bytes : List Byte) : State := State.reset.wrBytes base bytes

/-- What a predicate says of the next state; false where the machine stops. -/
def holds (o : Host.Outcome State Fault Refusal) (p : State → Bool) : Bool :=
  match o with
  | .next t => p t
  | .fault _ => false
  | .refused _ => false

/-- The request of V-CRC-7. -/
def request : State := withBytes 0 [0x10, 0x03, 0x00, 0x11, 0x00, 0x01]

/-- V-COD-1. -/
theorem test_stb : holds (exec (.stb 5#8 0xAB#8) State.reset) (fun t => t.rd 5 == 0xAB#8 && t.res == 0) = true := by decide

/-- V-COD-2. -/
theorem test_ldb : holds (exec (.ldb 5#8) (withBytes 5 [0xAB])) (fun t => t.res == 0xAB#32) = true := by decide

/-- V-COD-3. -/
theorem test_enc16 : holds (exec (.enc16 3#8 0x1234#16) State.reset)
    (fun t => t.rd 3 == 0x12#8 && t.rd 4 == 0x34#8) = true := by decide

/-- V-COD-14: not even `BUF[255]` is written. -/
theorem test_enc16_bounds : holds (exec (.enc16 255#8 0x1234#16) (withBytes 255 [0x77]))
    (fun t => t.rd 255 == 0x77#8 && t.cause == 3 && t.sticky) = true := by decide

/-- V-COD-7. -/
theorem test_enc32 : holds (exec (.enc32 252#8 0x12345678#32) State.reset)
    (fun t => t.rd 252 == 0x12#8 && t.rd 253 == 0x34#8 && t.rd 254 == 0x56#8 && t.rd 255 == 0x78#8) = true := by decide

/-- V-COD-5: 255, not 65280. -/
theorem test_dec16 : holds (exec (.dec16 3#8) (withBytes 3 [0x00, 0xFF])) (fun t => t.res == 0xFF#32) = true := by decide

/-- V-COD-11: unsigned, bit 31 set. -/
theorem test_dec32 : holds (exec (.dec32 3#8) (withBytes 3 [0x80, 0x00, 0x00, 0x00]))
    (fun t => t.res == 0x80000000#32) = true := by decide

/-- V-CRC-8. -/
theorem test_crcGen : holds (exec (.crcGen 6#16) request) (fun t => t.res == 0x4ED7#32) = true := by decide +kernel

/-- V-CRC-9: low byte first. -/
theorem test_crcApp : holds (exec (.crcApp 6#16) request)
    (fun t => t.rd 6 == 0xD7#8 && t.rd 7 == 0x4E#8 && t.res == 0x4ED7#32) = true := by decide +kernel

/-- V-CRC-10. -/
theorem test_crcChk_good : holds (exec (.crcChk 7#16) (withBytes 0 [0x10, 0x03, 0x02, 0x12, 0x34, 0x49, 0x30]))
    (fun t => t.res == 1) = true := by decide +kernel

/-- V-CRC-11: CRC bytes swapped. -/
theorem test_crcChk_swapped : holds (exec (.crcChk 7#16) (withBytes 0 [0x10, 0x03, 0x02, 0x12, 0x34, 0x30, 0x49]))
    (fun t => t.res == 0) = true := by decide +kernel

/-- V-BLD-1. -/
theorem test_bldRh : holds (exec (.bldRh 0x10#8 17#16 1#16) State.reset)
    (fun t => t.rdFirst 6 == [0x10, 0x03, 0x00, 0x11, 0x00, 0x01] && t.res == 6) = true := by decide

/-- V-BLD-6. -/
theorem test_bldRi : holds (exec (.bldRi 1#8 0xFFFF#16 0xFFFF#16) State.reset)
    (fun t => t.rdFirst 6 == [0x01, 0x04, 0xFF, 0xFF, 0xFF, 0xFF] && t.res == 6) = true := by decide

/-- V-BLD-8: the largest legal count. -/
theorem test_bldWm : holds (exec (.bldWm 0x10#8 0 123#16) State.reset)
    (fun t => t.rdFirst 7 == [0x10, 0x10, 0x00, 0x00, 0x00, 0x7B, 0xF6] && t.res == 253) = true := by decide

/-- P1, `XACT` accepted, steps 1 and 2 begun. -/
theorem test_xact_accepted : holds (exec (.xact 6#16) request)
    (fun t => t.phase == .tx && t.psz == 6 && t.reqfc == 0x03#8 && t.rd 6 == 0xD7#8 && t.rd 7 == 0x4E#8) = true := by
  decide +kernel

/-- V-X-20. -/
theorem test_xact_bounds : holds (exec (.xact 1#16) request) (fun t => t.phase == .idle && t.cause == 3) = true := by
  decide

/-! ### One engine step each -/

/-- A block in phase `TX` with the frame of P1. -/
def sending : State :=
  { withBytes 0 [0x10, 0x03, 0x00, 0x11, 0x00, 0x01, 0xD7, 0x4E] with phase := .tx, psz := 6, reqfc := 0x03 }

/-- A block in phase `RX` that has received `n` bytes, no read request outstanding. -/
def receiving (bytes : List Byte) (n explen : Count) (next : List RxAnswer) : State :=
  { withBytes 0 bytes with phase := .rx, psz := 6, txcnt := 8, reqfc := 0x03, rxcnt := n, explen := explen, rxAns := next }

/-- The same with a read request outstanding. -/
def awaitingByte (bytes : List Byte) (n explen : Count) (next : List RxAnswer) : State :=
  { receiving bytes n explen next with awaiting := true, bus := [.readReq 10000] }

/-- A block in phase `CHECK` that has received all of P1's response. -/
def checking (bytes : List Byte) (n explen : Count) : State :=
  { withBytes 0 bytes with phase := .check, psz := 6, txcnt := 8, reqfc := 0x03, rxcnt := n, explen := explen }

theorem test_tx_last_byte : holds (step { sending with txcnt := 7 })
    (fun t => t.bus == [.txByte 0x4E#8 true] && t.txcnt == 8 && t.phase == .tx) = true := by decide

theorem test_tx_not_ready : holds (step { sending with txReady := [false, true] })
    (fun t => t.bus == [] && t.txcnt == 0 && t.txReady == [true]) = true := by decide

theorem test_rx_starts : holds (step { sending with txcnt := 8 })
    (fun t => t.phase == .rx && t.explen == 257 && t.rxcnt == 0) = true := by decide

theorem test_rx_request : holds (step (receiving [0x10, 0x03] 2 257 [⟨0x02, true⟩]))
    (fun t => t.awaiting && t.rxcnt == 2 && t.bus == [.readReq 10000] && t.rxAns == [⟨0x02, true⟩]) = true := by decide

theorem test_rx_not_answered : holds (step { awaitingByte [0x10] 1 257 [⟨0x83, true⟩] with rxReady := [false] })
    (fun t => t.awaiting && t.rxcnt == 1 && !t.excf && t.bus == [.readReq 10000] && t.rxReady == []) = true := by decide

/-- R151: the request forgotten, its answer left for the next transaction. -/
theorem test_reset_while_waiting : holds (step { awaitingByte [0x10] 1 257 [⟨0x83, true⟩] with resetIn := [true] })
    (fun t => t.phase == .idle && !t.awaiting && t.bus == [.readReq 10000] && t.rxAns == [⟨0x83, true⟩]) = true := by
  decide

/-- S4: the third byte 2 resolves to 7. -/
theorem test_rx_third_byte : holds (step (awaitingByte [0x10, 0x03] 2 257 [⟨0x02, true⟩]))
    (fun t => t.explen == 7 && t.rxcnt == 3 && t.bus == [.readReq 10000]) = true := by decide

/-- V-X-3: bit 7 of the second byte. -/
theorem test_rx_second_byte : holds (step (awaitingByte [0x10] 1 257 [⟨0x83, true⟩]))
    (fun t => t.excf && t.explen == 257) = true := by decide

/-- The end state of P1. -/
theorem test_check_ok : holds (step (checking [0x10, 0x03, 0x02, 0x12, 0x34, 0x49, 0x30] 7 7))
    (fun t => t.result == 0 && t.statusRead 0 == 4) = true := by decide +kernel

/-- V-X-16. -/
theorem test_check_crc : holds (step (checking [0x10, 0x03, 0x02, 0x12, 0x34, 0x30, 0x49] 7 7))
    (fun t => t.result == 0x0300#16) = true := by decide +kernel

/-- P4. -/
theorem test_check_size : holds (step (checking [0x10, 0x03, 0x02, 0x12] 4 7))
    (fun t => t.result == 0x0200#16 && t.rxcnt == 4 && t.explen == 7) = true := by decide

/-- P3: `RESULT = 0102`, `STATUS = 6`. -/
theorem test_check_exception :
    holds (step { checking [0x10, 0x84, 0x02, 0x92, 0xC4] 5 5 with excf := true, excode := 2 })
      (fun t => t.result == 0x0102#16 && t.statusRead 0 == 6) = true := by decide +kernel

/-! ### R122 as one function -/

/-- The answers of a transport that gives those bytes and then fails. -/
def answers (bytes : List Byte) (k : Nat) : RxAnswer := ⟨bytes.getD k 0, k < bytes.length⟩

/-- A buffer of 256 bytes that begins with those. -/
def bufferOf (bytes : List Byte) : List Byte := bytes ++ List.replicate (256 - bytes.length) 0

/-- P1's request. -/
def readRequest : List Byte := bufferOf [0x10, 0x03, 0x00, 0x11, 0x00, 0x01]

/-- P2's request. -/
def writeRequest : List Byte := bufferOf [0x10, 0x10, 0x00, 0x21, 0x00, 0x02, 0x04, 0x80, 0x80, 0x80, 0x80]

/-- V-X-0. -/
theorem test_transact_read :
    let r := transact readRequest 6 (answers [0x10, 0x03, 0x02, 0x12, 0x34, 0x49, 0x30])
    r.result = .ok ∧ r.rxcnt = 7 ∧ r.explen = 7 ∧ r.used = 7 ∧
    r.tx = [0x10, 0x03, 0x00, 0x11, 0x00, 0x01, 0xD7, 0x4E] := by decide +kernel

/-- V-X-3w. -/
theorem test_transact_exception_to_write :
    let r := transact writeRequest 11 (answers [0x10, 0x90, 0x03, 0x5C, 0x04])
    r.result = .slaveException 3 ∧ r.rxcnt = 5 ∧ r.explen = 5 ∧ r.excf = true := by decide +kernel

/-! ### The command port -/

/-- A block to which that word is presented. -/
def presented (w : CmdWord) : State := { State.reset with cmds := [w, 0#48] }

theorem test_withFetchWord_runs_next (s : State) : step (s.withFetchWord 48 0x300000000000) =
    .next (State.raise { s with phase := .idle } .bounds) := by
  rw [step_withFetchWord, accept_cmd (i := .xact 0) (by decide), exec_xact, execXact_out_of_range (by decide)]

theorem presented_presents (w : CmdWord) : (presented w).Presents w [0#48] := ⟨rfl, rfl, rfl⟩

/-! ### Witnesses: the hypotheses of each statement can be met -/

theorem witness_EncodeInvertsDecode : decode 0x010600000004#48 = .cmd (.stb 6#8 4#8) := by decide

theorem witness_EveryWordIsClassified :
    (presented 0x070000000000#48).Presents 0x070000000000#48 [0#48] ∧ fieldOp 0x070000000000#48 ∉ opcodeValues :=
  ⟨presented_presents _, by decide⟩

theorem witness_ReservedBitRaisesRsvd : ∃ r ∈ opcodeRows,
    (presented 0x050300000001#48).Presents 0x050300000001#48 [0#48] ∧
    fieldOp 0x050300000001#48 = fieldOp r.pattern ∧ r.covers 0x050300000001#48 = false :=
  ⟨⟨"DEC16", 0x050000000000#48, 0xFF00FFFFFFFF#48⟩, by decide, presented_presents _, by decide, by decide⟩

theorem witness_StepRunsDecodedCommand :
    (presented 0x30000000000B#48).Presents 0x30000000000B#48 [0#48] ∧ decode 0x30000000000B#48 = .cmd (.xact 11#16) :=
  ⟨presented_presents _, by decide⟩

theorem witness_BusyStepIgnoresPendingCommands :
    sending.phase ≠ .idle ∧ sending.resetNow = false ∧ ∃ t, step sending = .next t := ⟨by decide, by decide, _, rfl⟩

theorem witness_IdleStepRetainsState :
    State.reset.phase = .idle ∧ State.reset.resetNow = false ∧ State.reset.cmds = [] := by decide

theorem witness_ResetValues : State.resetNow { State.reset with resetIn := [true] } = true := by decide

/-- A reset in phase `TX`, one while a read request is outstanding, and a transaction that ends. -/
theorem witness_OnlyResetAbandonsXact :
    (State.phase { sending with resetIn := [true] } ≠ .idle ∧
      State.resetNow { sending with resetIn := [true] } = true) ∧
    (awaitingByte [0x10] 1 257 []).phase ≠ .idle ∧
    State.resetNow { awaitingByte [0x10] 1 257 [] with resetIn := [true] } = true ∧
    ∃ s t : State, s.phase ≠ .idle ∧ s.resetNow = false ∧ step s = .next t ∧ t.phase = .idle :=
  ⟨by decide, by decide, by decide, checking [] 4 7, _, by decide, by decide, rfl, rfl⟩

theorem reset_inv : State.reset.Inv := by constructor <;> decide

theorem witness_StepKeepsInvariant : State.reset.Inv ∧ ∃ t, step State.reset = .next t := ⟨reset_inv, _, rfl⟩

theorem witness_RunsNeverStop : State.reset.Inv := reset_inv

/-- A state of a running transaction meets the invariant too. -/
theorem sending_inv : sending.Inv := by constructor <;> decide

theorem witness_RegistersHaveTheirWriters :
    ((presented 0x300000000006#48).phase = .idle ∧ (presented 0x300000000006#48).resetNow = false ∧
      ∃ t, step (presented 0x300000000006#48) = .next t) ∧
    sending.phase ≠ .idle ∧ sending.resetNow = false ∧ ∃ t, step sending = .next t :=
  ⟨⟨by decide, by decide, _, rfl⟩, by decide, by decide, _, rfl⟩

theorem witness_TraceChangesNothing : ∃ t, step (checking [] 4 7) = .next t := ⟨_, rfl⟩

theorem witness_StatusReadPort : State.reset.phase = .idle ∧ sending.phase ≠ .idle := by decide

theorem witness_Enc16StoresBigEndian : (254#8 : Byte).toNat ≠ 255 := by decide

theorem witness_Enc32StoresBigEndian : (252#8 : Byte).toNat < 253 := by decide

theorem witness_Dec16ReadsBigEndian : (0#8 : Byte).toNat ≠ 255 := by decide

theorem witness_Dec32ReadsBigEndian : (0#8 : Byte).toNat < 253 := by decide

theorem witness_CodecRoundTrips :
    (∃ t, exec (.enc16 254#8 0x1234#16) State.reset = .next t) ∧
    (∃ t, exec (.enc32 252#8 0x12345678#32) State.reset = .next t) ∧
    (∃ t, exec (.dec16 254#8) request = .next t) ∧ (∃ t, exec (.dec32 252#8) request = .next t) :=
  ⟨⟨_, rfl⟩, ⟨_, rfl⟩, ⟨_, rfl⟩, ⟨_, rfl⟩⟩

theorem witness_MixedWidthReads :
    (252#8 : Byte).toNat < 253 ∧ ∃ t, exec (.enc32 252#8 0x12345678#32) State.reset = .next t := ⟨by decide, _, rfl⟩

theorem witness_CrcGenGivesCrc : (256#16 : Half).toNat ≤ 256 := by decide

theorem witness_CrcAppAppendsCrc : (254#16 : Half).toNat < 255 := by decide

theorem witness_CrcChkComparesCrc : 2 ≤ (2#16 : Half).toNat ∧ (2#16 : Half).toNat ≤ 256 := by decide

theorem witness_AppendedCrcVerifies : (254#16 : Half).toNat + 2 ≤ 256 := by decide

theorem witness_SingleBitErrorIsDetected :
    (254#16 : Half).toNat + 2 ≤ 256 ∧ (∃ t, exec (.crcApp 254#16) request = .next t) ∧ 255 < (254#16 : Half).toNat + 2 ∧ 7 < 8 :=
  ⟨by decide, ⟨_, rfl⟩, by decide, by decide⟩

theorem witness_WriteBuilderWritesHeader : (123#16 : Half).toNat < 124 := by decide

theorem witness_ReadingCommandsFrame : (∃ t, exec (.ldb 255#8) request = .next t) ∧
    (∃ t, exec (.dec16 0#8) request = .next t) ∧ (∃ t, exec (.dec32 0#8) request = .next t) ∧
    (∃ t, exec (.crcGen 6#16) request = .next t) ∧ (∃ t, exec (.crcChk 6#16) request = .next t) :=
  ⟨⟨_, rfl⟩, ⟨_, rfl⟩, ⟨_, rfl⟩, ⟨_, rfl⟩, ⟨_, rfl⟩⟩

theorem witness_StoringCommandsFrame : (∃ t, exec (.stb 255#8 1#8) request = .next t) ∧
    (∃ t, exec (.enc16 254#8 1#16) request = .next t) ∧ (∃ t, exec (.enc32 252#8 1#32) request = .next t) ∧
    (∃ t, exec (.crcApp 254#16) request = .next t) := ⟨⟨_, rfl⟩, ⟨_, rfl⟩, ⟨_, rfl⟩, ⟨_, rfl⟩⟩

theorem witness_BuildersFrame : (∃ t, exec (.bldRh 0 0 0) request = .next t) ∧
    (∃ t, exec (.bldRi 0 0 0) request = .next t) ∧ (∃ t, exec (.bldWm 0 0 123#16) request = .next t) :=
  ⟨⟨_, rfl⟩, ⟨_, rfl⟩, ⟨_, rfl⟩⟩

theorem witness_XactAcceptanceFrame : (∃ t, exec (.xact 254#16) request = .next t) ∧
    (∃ t, exec (.xact 255#16) request = .next t) := ⟨⟨_, rfl⟩, ⟨_, rfl⟩⟩

theorem witness_BoundsRaisedExactlyOutsideLimits :
    (Instr.dec16 254#8).wellFormed = true ∧ (Instr.dec16 255#8).wellFormed = false := by decide

/-- V-COD-12. -/
theorem witness_CommandErrorChangesOnlyErr :
    (presented 0x05FF00000000#48).Presents 0x05FF00000000#48 [0#48] ∧
    ∃ t, step (presented 0x05FF00000000#48) = .next t ∧ t.cause ≠ 0 := ⟨presented_presents _, _, rfl, by decide⟩

/-- R132's example and its neighbours: `ILLOP`, `RSVD` before `BOUNDS`, `BOUNDS`, none. -/
theorem witness_CauseOfEveryWord :
    fieldOp 0x07FF00000001#48 ∉ opcodeValues ∧
    (fieldOp 0x05FF00000001#48 ∈ opcodeValues ∧ ∀ r ∈ opcodeRows, r.covers 0x05FF00000001#48 = false) ∧
    ((∃ r ∈ opcodeRows, r.covers 0x05FF00000000#48 = true) ∧ WordBeyondLimit 0x05FF00000000#48) ∧
    ((∃ r ∈ opcodeRows, r.covers 0x05FE00000000#48 = true) ∧ ¬ WordBeyondLimit 0x05FE00000000#48) := by
  unfold WordBeyondLimit; decide

theorem test_cause_of_priority_example : holds (step (presented 0x05FF00000001#48)) (fun t => t.cause == 2) = true := by
  decide

theorem witness_StickyClearedOnlyByReset :
    (decode 0x05FE00000000#48 = .cmd (.dec16 254#8) ∧ (Instr.dec16 254#8).wellFormed = true) ∧
    (∃ t, step { State.reset with sticky := true } = .next t) ∧
    (∃ t, step (presented 0x05FF00000000#48) = .next t) ∧ (∃ t, step sending = .next t) ∧
    ∃ t, step { State.reset with sticky := true, resetIn := [true] } = .next t :=
  ⟨by decide, ⟨_, rfl⟩, ⟨_, rfl⟩, ⟨_, rfl⟩, _, rfl⟩

theorem witness_XactIsAccepted : 2 ≤ (2#16 : Half).toNat ∧ (254#16 : Half).toNat ≤ 254 := by decide

theorem witness_TxHandsOverNextByte : sending.phase = .tx ∧ sending.resetNow = false ∧
    sending.txcnt.toNat < sending.psz.toNat + 2 ∧ sending.psz.toNat + 2 ≤ 256 ∧ sending.txReady.head? ≠ some false ∧
    State.txReady { sending with txReady := [false] } = [false] := by decide

/-- Both clauses at their boundary: function codes 4 and 5. -/
theorem witness_ReceptionStarts : let s := { sending with txcnt := 8 }
    s.phase = .tx ∧ s.resetNow = false ∧ s.psz.toNat + 2 ≤ s.txcnt.toNat ∧
    State.reqfc { s with reqfc := 4 } = 4 ∧ 4 < (State.reqfc { s with reqfc := 5 }).toNat := by decide

theorem witness_ReceivedByteIsStored :
    (let s := receiving [] 255 260 [];
      s.phase = .rx ∧ s.resetNow = false ∧ s.awaiting = false ∧ s.rxcnt.toNat < s.explen.toNat ∧ s.rxcnt.toNat < 256) ∧
    (let s := awaitingByte [] 255 260 [⟨0x10, true⟩];
      s.phase = .rx ∧ s.resetNow = false ∧ s.awaiting = true ∧ s.rxcnt.toNat < 256 ∧ s.rxReady.head? ≠ some false ∧
      (s.answerAt 0).ok = true ∧ (State.rxReady { s with rxReady := [false] }).head? = some false) := by decide

theorem witness_SecondByteFlagsException : let s := awaitingByte [0x10] 1 257 [⟨0x83, true⟩]
    s.phase = .rx ∧ s.resetNow = false ∧ s.awaiting = true ∧ s.rxReady.head? ≠ some false ∧ s.rxcnt = 1 ∧
    (s.answerAt 0).ok = true := by decide

theorem witness_ThirdByteResolvesLength : let s := awaitingByte [0x10, 0x03] 2 257 [⟨0xFF, true⟩]
    (s.phase = .rx ∧ s.resetNow = false ∧ s.awaiting = true ∧ s.rxReady.head? ≠ some false ∧ s.rxcnt = 2 ∧
      (s.answerAt 0).ok = true ∧ s.excf = false ∧ State.excf { s with excf := true } = true) ∧
    ∃ t, step (awaitingByte [] 3 7 [⟨0x12, true⟩]) = .next t ∧ 3 ≤ (awaitingByte [] 3 7 []).rxcnt.toNat :=
  ⟨by decide, _, rfl, by decide⟩

theorem witness_ReceptionEndsExactlyThen :
    ((receiving [] 7 7 []).phase = .rx ∧ (receiving [] 7 7 []).resetNow = false ∧ (receiving [] 7 7 []).awaiting = false) ∧
    (let s := awaitingByte [] 255 260 [⟨0, false⟩];
      s.phase = .rx ∧ s.awaiting = true ∧ s.rxcnt.toNat < 256 ∧ s.rxReady.head? ≠ some false ∧
      (s.answerAt 0).ok = false) ∧
    (checking [] 4 7).phase = .check ∧ (checking [] 4 7).resetNow = false ∧ ∃ t, step (checking [] 4 7) = .next t :=
  ⟨by decide, by decide, by decide, by decide, _, rfl⟩

theorem witness_SizeMismatchOutcome : let s := checking [] 256 257
    s.phase = .check ∧ s.resetNow = false ∧ s.rxcnt.toNat ≤ 256 ∧ s.rxcnt ≠ s.explen := by decide

theorem witness_CrcMismatchOutcome : let s := checking [0x10, 0x03, 0x02, 0x12, 0x34, 0x30, 0x49] 7 7
    s.phase = .check ∧ s.resetNow = false ∧ 2 ≤ s.rxcnt.toNat ∧ s.rxcnt.toNat ≤ 256 ∧ s.rxcnt = s.explen ∧
    (crc16 ((List.range (s.rxcnt.toNat - 2)).map s.rd)).toNat ≠
      (s.rd (s.rxcnt.toNat - 1)).toNat * 256 + (s.rd (s.rxcnt.toNat - 2)).toNat := by decide +kernel

theorem witness_CompleteResponseOutcome : let s := checking [0x10, 0x84, 0x02, 0x92, 0xC4] 5 5
    s.phase = .check ∧ s.resetNow = false ∧ 2 ≤ s.rxcnt.toNat ∧ s.rxcnt.toNat ≤ 256 ∧ s.rxcnt = s.explen ∧
    (crc16 ((List.range (s.rxcnt.toNat - 2)).map s.rd)).toNat =
      (s.rd (s.rxcnt.toNat - 1)).toNat * 256 + (s.rd (s.rxcnt.toNat - 2)).toNat ∧
    s.excf = false ∧ State.excf { s with excf := true } = true := by decide +kernel

theorem witness_XactRunsAsTransact :
    (presented 0x300000000002#48).Presents 0x300000000002#48 [0#48] ∧
    decode 0x300000000002#48 = .cmd (.xact 2#16) ∧ 2 ≤ (2#16 : Half).toNat ∧ (2#16 : Half).toNat ≤ 254 ∧
    (presented 0x300000000002#48).awaiting = false ∧ (presented 0x300000000002#48).NoReset := by
  refine ⟨presented_presents _, by decide, by decide, by decide, by decide, ?_⟩
  intro level h
  simp [presented, State.reset] at h

theorem witness_XactEndsWithinBound : sending.Inv ∧ sending.NoReset := by
  refine ⟨sending_inv, ?_⟩
  intro level h
  simp [sending, withBytes, State.reset] at h

theorem witness_TransactIgnoresOldBuffer : readRequest.length = 256 ∧ writeRequest.length = 256 ∧
    (4 < (readRequest.getD 1 0).toNat ↔ 4 < (readRequest.getD 1 0).toNat) := by decide +kernel

theorem witness_TransactLeavesReceivedBytes : readRequest.length = 256 ∧ 2 ≤ 6 ∧ 6 ≤ 254 := by decide +kernel

/-- The three kinds of response: exception, write echo, read. -/
theorem witness_ResponseOfResolvedLength :
    (List.length ([0x10, 0x83, 0x02] : List Byte) + 2 = (if (([0x10, 0x83, 0x02] : List Byte).getD 1 0).getLsbD 7 then 5
      else if 4 < (readRequest.getD 1 0).toNat then 8 else 5 + (([0x10, 0x83, 0x02] : List Byte).getD 2 0).toNat)) ∧
    (List.length ([0x10, 0x10, 0x00, 0x21, 0x00, 0x02] : List Byte) + 2 = (if (([0x10, 0x10, 0x00, 0x21, 0x00, 0x02] : List Byte).getD 1 0).getLsbD 7 then 5
      else if 4 < (writeRequest.getD 1 0).toNat then 8 else 5 + (([0x10, 0x10, 0x00, 0x21, 0x00, 0x02] : List Byte).getD 2 0).toNat)) ∧
    (List.length ([0x10, 0x03, 0x00] : List Byte) + 2 = (if (([0x10, 0x03, 0x00] : List Byte).getD 1 0).getLsbD 7 then 5
      else if 4 < (readRequest.getD 1 0).toNat then 8 else 5 + (([0x10, 0x03, 0x00] : List Byte).getD 2 0).toNat)) ∧
    (∀ k, k < 3 + 2 → answers ([0x10, 0x03, 0x00] ++ [0x70, 0xF5]) k =
      ⟨(([0x10, 0x03, 0x00] : List Byte) ++ [0x70, 0xF5]).getD k 0, true⟩) := by decide +kernel

theorem witness_FailedReadGivesSizeMismatch :
    (∃ k, k < (transact readRequest 6 (answers [])).used ∧ (answers [] k).ok = false) ∧
    ((∀ k, k < 256 → (answers ([0x10, 0x03, 0xFC] ++ List.replicate 253 0) k).ok = true) ∧
      (readRequest.getD 1 0).toNat ≤ 4 ∧
      (answers ([0x10, 0x03, 0xFC] ++ List.replicate 253 0) 1).byte.getLsbD 7 = false ∧
      252 ≤ (answers ([0x10, 0x03, 0xFC] ++ List.replicate 253 0) 2).byte.toNat) :=
  ⟨⟨0, by decide +kernel⟩, by decide +kernel⟩

end Sys2Proof.Tests
end

namespace Sys2Proof.Machine

/-! ### The invariant, update by update -/

/-- Outside the receive loop no read request is outstanding. -/
theorem State.Inv.awaiting_eq_false {s : State} (h : s.Inv) (hp : s.phase ≠ .rx) : s.awaiting = false :=
  Bool.eq_false_iff.2 fun ha => hp (h.awaiting_rx ha).1

/-- While the block is busy no result is valid. -/
theorem State.Inv.valid_eq_false {s : State} (h : s.Inv) (hp : s.phase ≠ .idle) : s.valid = false :=
  Bool.eq_false_iff.2 fun hv => hp (h.valid_idle hv)

theorem State.Inv.pastReset {s : State} (h : s.Inv) : s.pastReset.Inv := { h with }

theorem State.Inv.countBusy {s : State} (h : s.Inv) : s.countBusy.Inv := { h with }

theorem State.Inv.taken {s : State} (h : s.Inv) (rest : List CmdWord) : (s.taken rest).Inv := { h with }

theorem State.Inv.reset : State.reset.Inv := by constructor <;> decide

theorem State.Inv.afterReset (s : State) : s.afterReset.Inv := { State.Inv.reset with }

/-- The cause codes of the command errors are 1 to 3 (R130). -/
theorem CmdError.code_toNat_le (e : CmdError) : e.code.toNat ≤ 3 := by cases e <;> decide

theorem State.Inv.raise {s : State} (h : s.Inv) (hi : s.phase = .idle) (e : CmdError) : (s.raise e).Inv :=
  { h with
    cause_range := e.code_toNat_le
    cause_sticky := fun _ => rfl
    busy_cause := fun hb => absurd hi hb }

/-- A command other than `XACT` that does not raise keeps the invariant: it writes `BUF`, `RES`, `CRCREG` and `CAUSE`. -/
theorem State.Inv.completed {s : State} (h : s.Inv) {m : Memory} (hm : Memory.wf m) (v : Word) (c : BitVec 16) :
    State.Inv { s with buf := m, res := v, crcreg := c, cause := 0 } :=
  { h with
    buf_wf := hm
    cause_range := by simp
    cause_sticky := fun hc => absurd rfl hc
    busy_cause := fun _ => rfl }

/-- Acceptance of a legal `XACT` by an idle block establishes what the invariant says of phase `TX` (R101, R103, R104). -/
theorem State.Inv.accepted {s : State} (h : s.Inv) (hi : s.phase = .idle) {psize : Half} (h2 : 2 ≤ psize.toNat)
    (h254 : psize.toNat ≤ 254) (ev : TraceEvent) : (((s.acceptXact psize).appendCrc psize.toNat).emit ev).Inv := by
  have ha : s.awaiting = false := h.awaiting_eq_false (by simp [hi])
  have hpsz : (psize.setWidth 8).toNat = psize.toNat := by
    rw [BitVec.toNat_setWidth, Nat.mod_eq_of_lt (by omega)]
  exact {
    buf_wf := Memory.storeBytes_wf h.buf_wf (show psize.toNat + 2 ≤ 256 by omega)
    rxcnt_le_cap := h.rxcnt_le_cap
    txcnt_le_cap := Nat.zero_le _
    psz_range := fun _ => by
      show 2 ≤ (psize.setWidth 8).toNat ∧ (psize.setWidth 8).toNat + 2 ≤ 256
      omega
    tx_progress := fun _ => Nat.zero_le _
    tx_before_rx := by simp
    explen_range := by simp
    rxcnt_le_explen := by simp
    explen_unresolved := by simp
    excf_unset := by simp
    excf_length := by simp
    awaiting_rx := by simp [ha]
    result_reserved := h.result_reserved
    result_code := h.result_code
    valid_idle := by simp
    size_outcome := by simp
    exception_outcome := by simp
    ok_outcome := by simp
    cause_range := by simp
    cause_sticky := by simp
    busy_cause := by simp }

/-- Accepting a word keeps the invariant, whatever the word is (R51, R54, R55). -/
theorem accept_inv {s t : State} {w : CmdWord} (h : s.Inv) (hi : s.phase = .idle)
    (ht : accept w s = .next t) : t.Inv := by
  rcases accept_next ht with ⟨e, rfl⟩ | ⟨m, v, c, hm, rfl⟩ | ⟨psize, h2, h254, rfl⟩
  · exact h.raise hi e
  · exact h.completed (hm h.buf_wf) v c
  · exact h.accepted hi h2 h254 _

/-! ### Phase `TX` -/

theorem State.Inv.pastOffer {s : State} (h : s.Inv) : s.pastOffer.Inv := { h with }

/-- A byte handed over is counted, up to `PSZ + 2` (R105). -/
theorem State.Inv.txByte {s : State} (h : s.Inv) (hp : s.phase = .tx) (hlt : s.txcnt.toNat < s.psz.toNat + 2) :
    s.txByte.Inv := by
  obtain ⟨-, hcap⟩ := h.psz_range (by simp [hp])
  have hcap : s.psz.toNat + 2 ≤ 256 := hcap
  have hcnt : (s.txcnt + 1).toNat = s.txcnt.toNat + 1 := BitVec.toNat_add_of_lt (by simp; omega)
  exact { h with
    txcnt_le_cap := show (s.txcnt + 1).toNat ≤ 256 by omega
    tx_progress := fun _ => show (s.txcnt + 1).toNat ≤ s.psz.toNat + 2 by omega
    tx_before_rx := by simp [hp] }

theorem initialExpLen_toNat (reqfc : Byte) :
    (initialExpLen reqfc).toNat = 8 ∨ (initialExpLen reqfc).toNat = 257 := by
  unfold initialExpLen
  split
  · exact .inl rfl
  · exact .inr rfl

/-- Step 3 sets up the receive loop (R107). -/
theorem State.Inv.enterRx {s : State} (h : s.Inv) (hp : s.phase = .tx) (hge : s.psz.toNat + 2 ≤ s.txcnt.toNat) :
    s.enterRx.Inv := by
  have hb : s.phase ≠ .idle := by simp [hp]
  have he := initialExpLen_toNat s.reqfc
  exact { h with
    rxcnt_le_cap := Nat.zero_le _
    psz_range := fun _ => h.psz_range hb
    tx_progress := by simp
    tx_before_rx := fun _ => Nat.le_antisymm (h.tx_progress hp) hge
    explen_range := fun _ => show 5 ≤ (initialExpLen s.reqfc).toNat ∧ (initialExpLen s.reqfc).toNat ≤ 260 by omega
    rxcnt_le_explen := fun _ => Nat.zero_le _
    explen_unresolved := fun _ _ => he
    excf_unset := fun _ _ => rfl
    excf_length := by simp
    awaiting_rx := by simp [h.awaiting_eq_false (by simp [hp])]
    valid_idle := by simp [h.valid_eq_false hb]
    size_outcome := by simp [h.valid_eq_false hb]
    exception_outcome := by simp [h.valid_eq_false hb]
    ok_outcome := by simp [h.valid_eq_false hb]
    busy_cause := fun _ => h.busy_cause hb }

theorem stepTx_inv {s t : State} (h : s.Inv) (hp : s.phase = .tx) (ht : stepTx s = .next t) : t.Inv := by
  rcases stepTx_next ht with ⟨hlt, -, -, rfl⟩ | ⟨-, -, -, rfl⟩ | ⟨hge, rfl⟩
  · exact h.pastOffer.txByte hp hlt
  · exact h.pastOffer
  · exact h.enterRx hp hge

/-! ### Phase `RX` -/

theorem State.Inv.pastWait {s : State} (h : s.Inv) : s.pastWait.Inv := { h with }

/-- A read request is issued only below both limits of the loop (R109, R112). -/
theorem State.Inv.request {s : State} (h : s.Inv) (hp : s.phase = .rx) (he : s.rxcnt.toNat < s.explen.toNat)
    (hc : s.rxcnt.toNat < 256) : s.request.Inv :=
  { h with awaiting_rx := fun _ => ⟨hp, he, hc⟩ }

theorem State.Inv.takeAnswer {s : State} (h : s.Inv) : s.takeAnswer.Inv := { h with awaiting_rx := by simp }

/-- Leaving the loop keeps what the loop knows of its counts. -/
theorem State.Inv.enterCheck {s : State} (h : s.Inv) (hp : s.phase = .rx) (ha : s.awaiting = false) :
    s.enterCheck.Inv := by
  have hb : s.phase ≠ .idle := by simp [hp]
  exact { h with
    psz_range := fun _ => h.psz_range hb
    tx_progress := by simp
    tx_before_rx := fun _ => h.tx_before_rx (.inl hp)
    explen_range := fun _ => h.explen_range (.inl hp)
    rxcnt_le_explen := fun _ => h.rxcnt_le_explen (.inl hp)
    explen_unresolved := fun _ => h.explen_unresolved (.inl hp)
    excf_unset := fun _ => h.excf_unset (.inl hp)
    excf_length := fun _ => h.excf_length (.inl hp)
    awaiting_rx := by simp [ha]
    valid_idle := by simp [h.valid_eq_false hb]
    busy_cause := fun _ => h.busy_cause hb }

/-- A byte stored and counted, with any flag, expected length and exception code that the loop's invariant allows at the
new count. -/
theorem State.Inv.storeRx {s : State} (h : s.Inv) (hp : s.phase = .rx) (ha : s.awaiting = false)
    (hc : s.rxcnt.toNat < 256) (b : Byte) {x : Bool} {e : Count} (code : Byte) (hrange : 5 ≤ e.toNat ∧ e.toNat ≤ 260)
    (hle : s.rxcnt.toNat + 1 ≤ e.toNat) (hun : s.rxcnt.toNat + 1 < 3 → e.toNat = 8 ∨ e.toNat = 257)
    (hset : s.rxcnt.toNat + 1 < 2 → x = false) (hlen : 3 ≤ s.rxcnt.toNat + 1 → x = true → e.toNat = 5) :
    State.Inv { s.storeRx b with excf := x, explen := e, excode := code } := by
  have hv : s.valid = false := h.valid_eq_false (by simp [hp])
  have hcnt : (s.rxcnt + 1).toNat = s.rxcnt.toNat + 1 := BitVec.toNat_add_of_lt (by simp; omega)
  exact { h with
    buf_wf := Memory.store_wf h.buf_wf hc b
    rxcnt_le_cap := show (s.rxcnt + 1).toNat ≤ 256 by omega
    explen_range := fun _ => hrange
    rxcnt_le_explen := fun _ => show (s.rxcnt + 1).toNat ≤ e.toNat by omega
    explen_unresolved := fun _ hn => hun (hcnt ▸ hn)
    excf_unset := fun _ hn => hset (hcnt ▸ hn)
    excf_length := fun _ hn => hlen (hcnt ▸ hn)
    awaiting_rx := by simp [ha]
    size_outcome := by simp [hv]
    exception_outcome := by simp [hv]
    ok_outcome := by simp [hv] }

/-- R111 resolves the length of step 3 to 5 to 260. -/
theorem resolvedExpLen_range {explen : Count} (h : explen.toNat = 8 ∨ explen.toNat = 257) (excf : Bool) (byte2 : Byte) :
    5 ≤ (resolvedExpLen excf explen byte2).toNat ∧ (resolvedExpLen excf explen byte2).toNat ≤ 260 := by
  unfold resolvedExpLen
  split
  · decide
  · split
    · have := byte2.isLt
      simp only [BitVec.toNat_add, BitVec.toNat_setWidth, show (3 : Count).toNat = 3 from rfl,
        show (2 : Count).toNat = 2 from rfl]
      omega
    · omega

/-- R111 gives a flagged response the length of an exception response. -/
theorem resolvedExpLen_of_excf {excf : Bool} (h : excf = true) (explen : Count) (byte2 : Byte) :
    (resolvedExpLen excf explen byte2).toNat = 5 := by
  rw [h]; rfl

/-- A received byte with the rules that follow its count keeps the invariant (R109 to R111). -/
theorem State.Inv.receive {s : State} (h : s.Inv) (hp : s.phase = .rx) (ha : s.awaiting = false)
    (he : s.rxcnt.toNat < s.explen.toNat) (hc : s.rxcnt.toNat < 256) (b : Byte) : (s.storeRx b).afterRx.Inv := by
  have hcnt : (s.storeRx b).rxcnt.toNat = s.rxcnt.toNat + 1 := BitVec.toNat_add_of_lt (by simp; omega)
  have hrange := h.explen_range (.inl hp)
  have hun := h.explen_unresolved (.inl hp)
  have hset := h.excf_unset (.inl hp)
  have hlen := h.excf_length (.inl hp)
  rcases (s.storeRx b).afterRx_cases with ⟨hn, e⟩ | ⟨hn, e⟩ | ⟨h2, h3, e⟩ <;> rw [e]
  · have hn : s.rxcnt.toNat + 1 = 2 := by rw [← hcnt, hn]; rfl
    exact h.storeRx hp ha hc b (e := s.explen) _ hrange (by omega) (fun _ => hun (by omega)) (by omega) (by omega)
  · have hn : s.rxcnt.toNat + 1 = 3 := by rw [← hcnt, hn]; rfl
    have hres := resolvedExpLen_range (hun (by omega)) s.excf ((s.storeRx b).rd 2)
    exact h.storeRx hp ha hc b (e := resolvedExpLen s.excf s.explen _) _ hres (by omega) (by omega) (by omega)
      (fun _ hx => resolvedExpLen_of_excf hx _ _)
  · have h2 : s.rxcnt.toNat + 1 ≠ 2 := fun e => h2 (BitVec.eq_of_toNat_eq (hcnt.trans e))
    have h3 : s.rxcnt.toNat + 1 ≠ 3 := fun e => h3 (BitVec.eq_of_toNat_eq (hcnt.trans e))
    exact h.storeRx hp ha hc b (e := s.explen) _ hrange (by omega) (fun _ => hun (by omega)) (fun _ => hset (by omega))
      (fun _ => hlen (by omega))

theorem stepRx_inv {s t : State} (h : s.Inv) (hp : s.phase = .rx) (ht : stepRx s = .next t) : t.Inv := by
  rcases stepRx_next ht with ⟨ha, ht⟩ | ⟨-, he, hc, rfl⟩ | ⟨ha, -, rfl⟩
  · obtain ⟨-, he, hc⟩ := h.awaiting_rx ha
    rcases awaitRx_next ht with ⟨-, ⟨-, rfl⟩ | ⟨-, -, rfl⟩ | ⟨-, -, rfl⟩⟩
    · exact h.pastWait
    · exact h.pastWait.takeAnswer.receive hp rfl he hc _
    · exact h.pastWait.takeAnswer.enterCheck hp rfl
  · exact h.request hp he hc
  · exact h.enterCheck hp ha

/-! ### Phase `CHECK` -/

theorem State.Inv.crcOver {s : State} (h : s.Inv) (n : Nat) : (s.crcOver n).Inv := { h with }

/-- An outcome in the encoding of `RESULT` has its reserved bits 0 (R16). -/
theorem toBits_toNat_lt (r : ModbusResult) : r.toBits.toNat < 1024 := by
  have hk := r.kind.isLt
  have hc := r.code.isLt
  rw [toBits_toNat]
  omega

/-- `CODE` is 0 for every outcome but the slave's exception (R16). -/
theorem ModbusResult.code_eq_zero {r : ModbusResult} (h : r.kind ≠ 1) : r.code = 0 := by
  cases r with
  | slaveException code => exact absurd rfl h
  | _ => rfl

/-- A result written in phase `CHECK` keeps the invariant when its kind agrees with the counts and the flag (R134). -/
theorem State.Inv.finish {s : State} (h : s.Inv) (hp : s.phase = .check) {r : ModbusResult}
    (hsize : r.kind = 2 ↔ s.rxcnt ≠ s.explen) (hexc : r.kind = 1 → s.excf = true ∧ s.rxcnt.toNat = 5)
    (hok : r.kind = 0 → s.excf = false) : (s.finish r).Inv :=
  { h with
    psz_range := by simp
    tx_progress := by simp
    tx_before_rx := by simp
    explen_range := by simp
    rxcnt_le_explen := by simp
    explen_unresolved := by simp
    excf_unset := by simp
    excf_length := by simp
    awaiting_rx := by simp [h.awaiting_eq_false (by simp [hp])]
    result_reserved := toBits_toNat_lt r
    result_code := by simpa [resultKind_toBits, resultCode_toBits] using r.code_eq_zero
    valid_idle := fun _ => rfl
    size_outcome := by simpa [resultKind_toBits] using hsize
    exception_outcome := by simpa [resultKind_toBits] using hexc
    ok_outcome := by simpa [resultKind_toBits] using hok
    busy_cause := by simp }

/-- The mapper's answer for a response of the expected length agrees with the flag (R117, R134). -/
theorem State.Inv.finish_mapped {s : State} (h : s.Inv) (hp : s.phase = .check) (heq : s.rxcnt = s.explen)
    (crcOk : Bool) : (s.finish (errorMapper true crcOk s.excf s.excode)).Inv := by
  have hn : 5 ≤ s.rxcnt.toNat := heq ▸ (h.explen_range (.inr hp)).1
  rcases errorMapper_cases true crcOk s.excf s.excode with ⟨hf, -⟩ | ⟨-, -, e⟩ | ⟨-, -, hx, e⟩ | ⟨-, -, hx, e⟩
  · cases hf
  · exact e ▸ h.finish hp (by simp [ModbusResult.kind, heq]) (by simp [ModbusResult.kind]) (by simp [ModbusResult.kind])
  · have h5 : s.rxcnt.toNat = 5 := heq ▸ h.excf_length (.inr hp) (by omega) hx
    exact e ▸ h.finish hp (by simp [ModbusResult.kind, heq]) (fun _ => ⟨hx, h5⟩) (by simp [ModbusResult.kind])
  · exact e ▸ h.finish hp (by simp [ModbusResult.kind, heq]) (by simp [ModbusResult.kind]) (fun _ => hx)

theorem stepCheck_inv {s t : State} (h : s.Inv) (hp : s.phase = .check) (ht : stepCheck s = .next t) : t.Inv := by
  rcases stepCheck_next ht with ⟨-, hne, rfl⟩ | ⟨-, -, heq, rfl⟩
  · exact h.finish hp (by simp [ModbusResult.kind, hne]) (by simp [ModbusResult.kind]) (by simp [ModbusResult.kind])
  · exact (h.crcOver _).finish_mapped hp heq _

/-! ### One step, and a run -/

theorem step_inv {s t : State} (h : s.Inv) (ht : step s = .next t) : t.Inv := by
  rcases step_next ht with ⟨-, rfl⟩ | ⟨-, -, -, rfl⟩ | ⟨w, rest, hw, ht⟩ | ⟨-, hp, ht⟩ | ⟨-, hp, ht⟩ | ⟨-, hp, ht⟩
  · exact .afterReset _
  · exact h.pastReset
  · exact accept_inv (h.taken rest) hw.1 ht
  · exact stepTx_inv h.pastReset.countBusy hp ht
  · exact stepRx_inv h.pastReset.countBusy hp ht
  · exact stepCheck_inv h.pastReset.countBusy hp ht

/-- Settles O13: one lemma on the invariant per update, put together along the branches of the step. -/
theorem stepKeepsInvariant : Obligations.StepKeepsInvariant := fun _ _ h ht => step_inv h ht

/-! ### No fault, no refusal -/

theorem stepTx_total {s : State} (h : s.Inv) (hp : s.phase = .tx) : ∃ t, stepTx s = .next t := by
  obtain ⟨-, hcap⟩ := h.psz_range (by simp [hp])
  have hcap : s.psz.toNat + 2 ≤ 256 := hcap
  by_cases hlt : s.txcnt.toNat < s.psz.toNat + 2
  · cases hr : s.txReadyNow with
    | true => exact ⟨_, stepTx_of_ready hlt (by omega) hr⟩
    | false => exact ⟨_, stepTx_of_not_ready hlt (by omega) hr⟩
  · exact ⟨_, stepTx_of_done (by omega)⟩

theorem stepRx_total {s : State} (h : s.Inv) : ∃ t, stepRx s = .next t := by
  cases ha : s.awaiting with
  | true =>
    obtain ⟨-, -, hc⟩ := h.awaiting_rx ha
    cases hr : s.rxReadyNow with
    | false => exact ⟨_, stepRx_of_wait ha hc hr⟩
    | true =>
      cases hok : (s.answerAt 0).ok with
      | true => exact ⟨_, stepRx_of_ok ha hc hr hok⟩
      | false => exact ⟨_, stepRx_of_fail ha hc hr hok⟩
  | false =>
    by_cases hlt : s.rxcnt.toNat < s.explen.toNat ∧ s.rxcnt.toNat < 256
    · exact ⟨_, stepRx_of_request ha hlt.1 hlt.2⟩
    · exact ⟨_, stepRx_of_end ha (by omega)⟩

theorem stepCheck_total {s : State} (h : s.Inv) (hp : s.phase = .check) : ∃ t, stepCheck s = .next t := by
  have hcap : s.rxcnt.toNat ≤ 256 := h.rxcnt_le_cap
  by_cases heq : s.rxcnt = s.explen
  · have h5 : 5 ≤ s.rxcnt.toNat := heq ▸ (h.explen_range (.inr hp)).1
    exact ⟨_, stepCheck_of_eq (by omega) hcap heq⟩
  · exact ⟨_, stepCheck_of_ne hcap heq⟩

/-- From a state with the invariant a step answers a next state, with the invariant. -/
theorem exists_step_inv {s : State} (h : s.Inv) : ∃ t, step s = .next t ∧ t.Inv := by
  suffices hs : ∃ t, step s = .next t from hs.imp fun t ht => ⟨ht, step_inv h ht⟩
  cases hr : s.resetNow with
  | true => exact ⟨_, step_of_reset hr⟩
  | false =>
    have hc := h.pastReset.countBusy
    cases hp : s.phase with
    | idle =>
      cases hq : s.cmds with
      | nil => exact ⟨_, step_of_no_command hr hp hq⟩
      | cons w rest => exact (step_of_presents ⟨hp, hr, hq⟩).symm ▸ accept_total w (s.taken rest)
    | tx => exact (step_of_tx hr hp).symm ▸ stepTx_total hc hp
    | rx => exact (step_of_rx hr hp).symm ▸ stepRx_total hc
    | check => exact (step_of_check hr hp).symm ▸ stepCheck_total hc hp

theorem RunsTo.zero (s : State) : RunsTo 0 s s := rfl

theorem run_succ_of_step (M : Host.Core) {k : Nat} {s t : M.State} (ht : M.step s = .next t) :
    M.run (k + 1) s = M.run k t := by
  simp only [Host.Core.run, ht]

/-- A step in front of a run is a run one step longer. -/
theorem RunsTo.succ {k : Nat} {s t u : State} (ht : step s = .next t) (hu : RunsTo k t u) : RunsTo (k + 1) s u :=
  (run_succ_of_step core ht).trans hu

/-- Settles O14, by induction on the number of steps. -/
theorem runsNeverStop : Obligations.RunsNeverStop := by
  intro s k h
  induction k generalizing s with
  | zero => exact ⟨s, .zero s, h⟩
  | succ k ih =>
    obtain ⟨t, ht, hinv⟩ := exists_step_inv h
    obtain ⟨u, hu, hu'⟩ := ih t hinv
    exact ⟨u, .succ ht hu, hu'⟩

/-! ### The block is ready again -/

/-- A bound on the steps without reset until the block is ready: what is left of each phase, a turn for each byte still to
be handed over, two for each byte the buffer can still take, and the listed levels of the two transport lines. -/
def State.stepsLeft (s : State) : Nat :=
  match s.phase with
  | .idle => 0
  | .check => 1
  | .rx => (if s.awaiting then 1 else 2) + 2 * (256 - s.rxcnt.toNat) + s.rxReady.length
  | .tx => 515 + (s.psz.toNat + 2 - s.txcnt.toNat) + s.txReady.length + s.rxReady.length

theorem State.stepsLeft_of_idle {s : State} (h : s.phase = .idle) : s.stepsLeft = 0 := by rw [State.stepsLeft, h]

theorem State.stepsLeft_of_check {s : State} (h : s.phase = .check) : s.stepsLeft = 1 := by rw [State.stepsLeft, h]

theorem State.stepsLeft_of_awaiting {s : State} (h : s.phase = .rx) (ha : s.awaiting = true) :
    s.stepsLeft = 1 + 2 * (256 - s.rxcnt.toNat) + s.rxReady.length := by
  simp only [State.stepsLeft, h, ha, if_true]

theorem State.stepsLeft_of_not_awaiting {s : State} (h : s.phase = .rx) (ha : s.awaiting = false) :
    s.stepsLeft = 2 + 2 * (256 - s.rxcnt.toNat) + s.rxReady.length := by
  simp only [State.stepsLeft, h, ha, Bool.false_eq_true, if_false]

theorem State.stepsLeft_of_tx {s : State} (h : s.phase = .tx) :
    s.stepsLeft = 515 + (s.psz.toNat + 2 - s.txcnt.toNat) + s.txReady.length + s.rxReady.length := by
  rw [State.stepsLeft, h]

/-- 256 bytes to hand over, step 3, 256 requests with their answers, the end of the loop, phase `CHECK`. -/
theorem State.Inv.stepsLeft_le {s : State} (h : s.Inv) : s.stepsLeft ≤ s.txReady.length + s.rxReady.length + 771 := by
  cases hp : s.phase with
  | idle => rw [State.stepsLeft_of_idle hp]; omega
  | check => rw [State.stepsLeft_of_check hp]; omega
  | rx =>
    cases ha : s.awaiting with
    | true => rw [State.stepsLeft_of_awaiting hp ha]; omega
    | false => rw [State.stepsLeft_of_not_awaiting hp ha]; omega
  | tx =>
    obtain ⟨-, hcap⟩ := h.psz_range (by simp [hp])
    have hcap : s.psz.toNat + 2 ≤ 256 := hcap
    rw [State.stepsLeft_of_tx hp]
    omega

/-- A line that is not ready in this step still lists this step's level. -/
theorem length_tail_lt_of_head {line : List Bool} (h : (line.head? != some false) = false) :
    line.tail.length < line.length := by
  cases line with
  | nil => simp at h
  | cons level rest => simp

theorem stepTx_stepsLeft {s t : State} (h : s.Inv) (hp : s.phase = .tx) (ht : stepTx s = .next t) :
    t.stepsLeft < s.stepsLeft := by
  rw [State.stepsLeft_of_tx hp]
  rcases stepTx_next ht with ⟨hlt, hcap, -, rfl⟩ | ⟨-, -, hr, rfl⟩ | ⟨-, rfl⟩
  · have hcnt : (s.txcnt + 1).toNat = s.txcnt.toNat + 1 := BitVec.toNat_add_of_lt (by simp; omega)
    rw [State.stepsLeft_of_tx (s := s.pastOffer.txByte) hp]
    simp only [State.txByte_fields, State.pastOffer_fields, hcnt, List.length_tail]
    omega
  · have := length_tail_lt_of_head hr
    rw [State.stepsLeft_of_tx (s := s.pastOffer) hp]
    simp only [State.pastOffer_fields]
    omega
  · rw [State.stepsLeft_of_not_awaiting (s := s.enterRx) rfl (h.awaiting_eq_false (by simp [hp]))]
    simp only [State.enterRx_fields]
    omega

theorem stepRx_stepsLeft {s t : State} (hp : s.phase = .rx) (ht : stepRx s = .next t) : t.stepsLeft < s.stepsLeft := by
  rcases stepRx_next ht with ⟨ha, ht⟩ | ⟨ha, -, hc, rfl⟩ | ⟨ha, -, rfl⟩
  · rw [State.stepsLeft_of_awaiting hp ha]
    obtain ⟨hc, ⟨hr, rfl⟩ | ⟨-, -, rfl⟩ | ⟨-, -, rfl⟩⟩ := awaitRx_next ht
    · have := length_tail_lt_of_head hr
      rw [State.stepsLeft_of_awaiting (s := s.pastWait) hp ha]
      simp only [State.pastWait_fields]
      omega
    · have hcnt : (s.rxcnt + 1).toNat = s.rxcnt.toNat + 1 := BitVec.toNat_add_of_lt (by simp; omega)
      rw [State.stepsLeft_of_not_awaiting (by simpa using hp) (by simp)]
      simp only [State.afterRx_fields, State.storeRx_fields, State.takeAnswer_fields, State.pastWait_fields, hcnt,
        List.length_tail]
      omega
    · rw [State.stepsLeft_of_check rfl]
      omega
  · rw [State.stepsLeft_of_not_awaiting hp ha, State.stepsLeft_of_awaiting (s := s.request) hp rfl]
    simp only [State.request_fields]
    omega
  · rw [State.stepsLeft_of_not_awaiting hp ha, State.stepsLeft_of_check rfl]
    omega

theorem stepCheck_stepsLeft {s t : State} (hp : s.phase = .check) (ht : stepCheck s = .next t) :
    t.stepsLeft < s.stepsLeft := by
  rw [State.stepsLeft_of_check hp]
  rcases stepCheck_next ht with ⟨-, -, rfl⟩ | ⟨-, -, -, rfl⟩ <;> rw [State.stepsLeft_of_idle rfl] <;> omega

/-- A step of a busy block without reset is an engine step, by phase (R12). -/
theorem step_busy_next {s t : State} (hr : s.resetNow = false) (hb : s.phase ≠ .idle) (ht : step s = .next t) :
    (s.phase = .tx ∧ stepTx s.pastReset.countBusy = .next t) ∨ (s.phase = .rx ∧ stepRx s.pastReset.countBusy = .next t) ∨
    (s.phase = .check ∧ stepCheck s.pastReset.countBusy = .next t) := by
  rcases step_next ht with ⟨hr', -⟩ | ⟨-, hi, -⟩ | ⟨w, rest, hw, -⟩ | ⟨-, h⟩ | ⟨-, h⟩ | ⟨-, h⟩
  · simp [hr] at hr'
  · exact absurd hi hb
  · exact absurd hw.1 hb
  · exact .inl h
  · exact .inr (.inl h)
  · exact .inr (.inr h)

/-- Each step of a busy block without reset brings it nearer to ready. -/
theorem step_stepsLeft {s t : State} (h : s.Inv) (hr : s.resetNow = false) (hb : s.phase ≠ .idle)
    (ht : step s = .next t) : t.stepsLeft < s.stepsLeft := by
  rcases step_busy_next hr hb ht with ⟨hp, ht⟩ | ⟨hp, ht⟩ | ⟨hp, ht⟩
  · exact stepTx_stepsLeft (s := s.pastReset.countBusy) h.pastReset.countBusy hp ht
  · exact stepRx_stepsLeft (s := s.pastReset.countBusy) hp ht
  · exact stepCheck_stepsLeft (s := s.pastReset.countBusy) hp ht

theorem State.NoReset.resetNow {s : State} (h : s.NoReset) : s.resetNow = false := by
  unfold State.NoReset at h
  unfold State.resetNow
  cases hl : s.resetIn with
  | nil => rfl
  | cons level rest => simp [h level (by simp [hl])]

theorem accept_resetIn {s t : State} {w : CmdWord} (ht : accept w s = .next t) : t.resetIn = s.resetIn := by
  rcases accept_next ht with ⟨e, rfl⟩ | ⟨m, v, c, -, rfl⟩ | ⟨psize, -, -, rfl⟩ <;> rfl

theorem stepTx_resetIn {s t : State} (ht : stepTx s = .next t) : t.resetIn = s.resetIn := by
  rcases stepTx_next ht with ⟨-, -, -, rfl⟩ | ⟨-, -, -, rfl⟩ | ⟨-, rfl⟩ <;> rfl

theorem stepRx_resetIn {s t : State} (ht : stepRx s = .next t) : t.resetIn = s.resetIn := by
  rcases stepRx_next ht with ⟨-, ht⟩ | ⟨-, -, -, rfl⟩ | ⟨-, -, rfl⟩
  · rcases awaitRx_next ht with ⟨-, ⟨-, rfl⟩ | ⟨-, -, rfl⟩ | ⟨-, -, rfl⟩⟩ <;> simp
  · rfl
  · rfl

theorem stepCheck_resetIn {s t : State} (ht : stepCheck s = .next t) : t.resetIn = s.resetIn := by
  rcases stepCheck_next ht with ⟨-, -, rfl⟩ | ⟨-, -, -, rfl⟩ <;> rfl

/-- Every step takes one level of the reset input, and no step looks further (R150). -/
theorem step_resetIn {s t : State} (ht : step s = .next t) : t.resetIn = s.resetIn.tail := by
  rcases step_next ht with ⟨-, rfl⟩ | ⟨-, -, -, rfl⟩ | ⟨w, rest, -, ht⟩ | ⟨-, -, ht⟩ | ⟨-, -, ht⟩ | ⟨-, -, ht⟩
  · rfl
  · rfl
  · exact accept_resetIn ht
  · exact stepTx_resetIn ht
  · exact stepRx_resetIn ht
  · exact stepCheck_resetIn ht

theorem State.NoReset.step {s t : State} (h : s.NoReset) (ht : Machine.step s = .next t) : t.NoReset := by
  intro level hl
  rw [step_resetIn ht] at hl
  exact h level (List.mem_of_mem_tail hl)

/-- Without reset the block is idle after at most `stepsLeft` steps. -/
theorem State.Inv.runsTo_idle {n : Nat} {s : State} (h : s.Inv) (hn : s.NoReset) (hle : s.stepsLeft ≤ n) :
    ∃ (k : Nat) (t : State), k ≤ n ∧ RunsTo k s t ∧ t.phase = .idle := by
  induction n generalizing s with
  | zero =>
    refine ⟨0, s, Nat.le_refl 0, .zero s, ?_⟩
    by_contra hb
    obtain ⟨t, ht, -⟩ := exists_step_inv h
    have := step_stepsLeft h hn.resetNow hb ht
    omega
  | succ n ih =>
    by_cases hi : s.phase = .idle
    · exact ⟨0, s, Nat.zero_le _, .zero s, hi⟩
    · obtain ⟨t, ht, hinv⟩ := exists_step_inv h
      have := step_stepsLeft h hn.resetNow hi ht
      obtain ⟨k, u, hk, hrun, hu⟩ := ih hinv (hn.step ht) (by omega)
      exact ⟨k + 1, u, by omega, .succ ht hrun, hu⟩

/-- Settles O56: `stepsLeft` falls with every step of a busy block, and the invariant bounds it. -/
theorem xactEndsWithinBound : Obligations.XactEndsWithinBound := fun _ h hn => h.runsTo_idle hn h.stepsLeft_le

/-! ### Pending commands -/

/-- The same state with these words pending at the command port. -/
def State.withCmds (s : State) (pending : List CmdWord) : State := { s with cmds := pending }

theorem stepTx_withCmds {s t : State} (ht : stepTx s = .next t) (pending : List CmdWord) :
    stepTx (s.withCmds pending) = .next (t.withCmds pending) := by
  rcases stepTx_next ht with ⟨hlt, hcap, hr, rfl⟩ | ⟨hlt, hcap, hr, rfl⟩ | ⟨hge, rfl⟩
  · exact stepTx_of_ready (s := s.withCmds pending) hlt hcap hr
  · exact stepTx_of_not_ready (s := s.withCmds pending) hlt hcap hr
  · exact stepTx_of_done (s := s.withCmds pending) hge

theorem State.afterRx_withCmds (s : State) (pending : List CmdWord) :
    (s.withCmds pending).afterRx = s.afterRx.withCmds pending := by
  rcases s.afterRx_cases with ⟨h2, e⟩ | ⟨h3, e⟩ | ⟨h2, h3, e⟩ <;> rw [e]
  · exact if_pos h2
  · have h2 : s.rxcnt ≠ 2 := by simp [h3]
    exact (if_neg h2).trans (if_pos h3)
  · exact (if_neg h2).trans (if_neg h3)

theorem stepRx_withCmds {s t : State} (ht : stepRx s = .next t) (pending : List CmdWord) :
    stepRx (s.withCmds pending) = .next (t.withCmds pending) := by
  rcases stepRx_next ht with ⟨ha, ht⟩ | ⟨ha, he, hc, rfl⟩ | ⟨ha, hge, rfl⟩
  · obtain ⟨hc, ⟨hr, rfl⟩ | ⟨hr, hok, rfl⟩ | ⟨hr, hok, rfl⟩⟩ := awaitRx_next ht
    · exact stepRx_of_wait (s := s.withCmds pending) ha hc hr
    · rw [← State.afterRx_withCmds]
      exact stepRx_of_ok (s := s.withCmds pending) ha hc hr hok
    · exact stepRx_of_fail (s := s.withCmds pending) ha hc hr hok
  · exact stepRx_of_request (s := s.withCmds pending) ha he hc
  · exact stepRx_of_end (s := s.withCmds pending) ha hge

theorem stepCheck_withCmds {s t : State} (ht : stepCheck s = .next t) (pending : List CmdWord) :
    stepCheck (s.withCmds pending) = .next (t.withCmds pending) := by
  rcases stepCheck_next ht with ⟨hcap, hne, rfl⟩ | ⟨h2, hcap, heq, rfl⟩
  · exact stepCheck_of_ne (s := s.withCmds pending) hcap hne
  · exact stepCheck_of_eq (s := s.withCmds pending) h2 hcap heq

/-- Settles O8: no engine step reads or writes the words pending at the port. -/
theorem busyStepIgnoresPendingCommands : Obligations.BusyStepIgnoresPendingCommands := by
  intro s t pending hb hr ht
  change step (s.withCmds pending) = .next (t.withCmds pending)
  rcases step_busy_next hr hb ht with ⟨hp, ht⟩ | ⟨hp, ht⟩ | ⟨hp, ht⟩
  · exact (step_of_tx (s := s.withCmds pending) hr hp).trans (stepTx_withCmds ht pending)
  · exact (step_of_rx (s := s.withCmds pending) hr hp).trans (stepRx_withCmds ht pending)
  · exact (step_of_check (s := s.withCmds pending) hr hp).trans (stepCheck_withCmds ht pending)

/-! ### Who writes which register -/

/-- Accepting a word writes none of the registers that a running `XACT` writes; it leaves the block idle with `VALID` as
it was, or begins an `XACT`, which clears `VALID` and leaves `RES`. -/
theorem accept_registers {s t : State} {w : CmdWord} (ht : accept w s = .next t) :
    t.result = s.result ∧ t.rxcnt = s.rxcnt ∧ t.explen = s.explen ∧ t.excf = s.excf ∧ t.excode = s.excode ∧
    (t.phase = s.phase ∧ t.valid = s.valid ∨ t.phase = .tx ∧ t.valid = false ∧ t.res = s.res) := by
  rcases accept_next ht with ⟨e, rfl⟩ | ⟨m, v, c, -, rfl⟩ | ⟨psize, -, -, rfl⟩
  · simp
  · simp
  · simp

/-- What an engine step leaves alone: `RES` and `ERR`, and `VALID` and `RESULT` while the `XACT` runs on. -/
def EngineFrame (s t : State) : Prop :=
  t.res = s.res ∧ t.cause = s.cause ∧ t.sticky = s.sticky ∧ (t.phase ≠ .idle → t.valid = s.valid ∧ t.result = s.result)

theorem stepTx_frame {s t : State} (ht : stepTx s = .next t) : EngineFrame s t := by
  rcases stepTx_next ht with ⟨-, -, -, rfl⟩ | ⟨-, -, -, rfl⟩ | ⟨-, rfl⟩
  all_goals exact ⟨rfl, rfl, rfl, fun _ => ⟨rfl, rfl⟩⟩

theorem stepRx_frame {s t : State} (ht : stepRx s = .next t) : EngineFrame s t := by
  rcases stepRx_next ht with ⟨-, ht⟩ | ⟨-, -, -, rfl⟩ | ⟨-, -, rfl⟩
  · rcases awaitRx_next ht with ⟨-, ⟨-, rfl⟩ | ⟨-, -, rfl⟩ | ⟨-, -, rfl⟩⟩ <;> simp [EngineFrame]
  all_goals exact ⟨rfl, rfl, rfl, fun _ => ⟨rfl, rfl⟩⟩

theorem stepCheck_frame {s t : State} (ht : stepCheck s = .next t) : EngineFrame s t := by
  rcases stepCheck_next ht with ⟨-, -, rfl⟩ | ⟨-, -, -, rfl⟩
  all_goals exact ⟨rfl, rfl, rfl, fun hb => absurd rfl hb⟩

/-- Settles O15, along the branches of the step. -/
theorem registersHaveTheirWriters : Obligations.RegistersHaveTheirWriters := by
  refine ⟨fun s t hi hr ht => ?_, fun s t hb hr ht => ?_⟩
  · cases hq : s.cmds with
    | nil =>
      obtain rfl := Host.Outcome.next.inj ((step_of_no_command hr hi hq).symm.trans ht)
      simp [hi]
    | cons w rest =>
      have ht := (step_of_presents ⟨hi, hr, hq⟩).symm.trans ht
      obtain ⟨hres, hrx, hexp, hexcf, hexcode, ⟨hp, hv⟩ | ⟨hp, hv⟩⟩ := accept_registers ht
      · exact ⟨hres, hrx, hexp, hexcf, hexcode, fun _ => hv, fun hb => absurd (hp.trans hi) hb⟩
      · exact ⟨hres, hrx, hexp, hexcf, hexcode, by simp [hp], fun _ => hv⟩
  · rcases step_busy_next hr hb ht with ⟨-, ht⟩ | ⟨-, ht⟩ | ⟨-, ht⟩
    · exact stepTx_frame (s := s.pastReset.countBusy) ht
    · exact stepRx_frame (s := s.pastReset.countBusy) ht
    · exact stepCheck_frame (s := s.pastReset.countBusy) ht

/-! ### Reset and the status read port -/

/-- Settles O10: the fields of the state that a reset step answers. -/
theorem resetValues : Obligations.ResetValues := by
  refine ⟨by and_intros <;> rfl, fun s hr => ⟨_, step_of_reset hr, ?_⟩⟩
  simp [State.busy]

/-- `STATUS` of an idle block as a number (R18). -/
theorem State.statusBits_toNat {s : State} (h : s.phase = .idle) :
    s.statusBits.toNat = 2 * s.excf.toNat + 4 * s.valid.toNat := by
  rw [State.statusBits, State.busy_eq_false.2 h]
  cases s.excf <;> cases s.valid <;> rfl

/-- `ERR` as a number (R18, R19). -/
theorem State.errBits_toNat (s : State) : s.errBits.toNat = s.cause.toNat + 128 * s.sticky.toNat := by
  have hc := s.cause.isLt
  rw [State.errBits, BitVec.toNat_setWidth, toNat_append, toNat_append]
  cases s.sticky <;> simp <;> omega

/-- The status read port of an idle block, register by register (R18). -/
theorem State.statusRead_of_idle {s : State} (h : s.phase = .idle) :
    s.statusRead 0 = s.statusBits ∧ s.statusRead 1 = s.res ∧ s.statusRead 2 = s.result.setWidth 32 ∧
    s.statusRead 3 = s.rxcnt.setWidth 32 ∧ s.statusRead 4 = s.explen.setWidth 32 ∧ s.statusRead 5 = s.errBits ∧
    s.statusRead 6 = 0 ∧ s.statusRead 7 = 0 := by
  simp [State.statusRead, State.busy_eq_false.2 h]

/-- Settles O17: the idle registers as numbers, the reset column by evaluation, and the one bit R20 gives. -/
theorem statusReadPort : Obligations.StatusReadPort := by
  refine ⟨fun s h => ?_, by decide, fun s h => ?_⟩
  · obtain ⟨h0, h1, h2, h3, h4, h5, h6, h7⟩ := State.statusRead_of_idle h
    rw [h0, h2, h3, h4, h5, State.statusBits_toNat h, State.errBits_toNat]
    exact ⟨rfl, h1, BitVec.toNat_setWidth_of_le (by decide), BitVec.toNat_setWidth_of_le (by decide),
      BitVec.toNat_setWidth_of_le (by decide), rfl, h6, h7⟩
  · simp [State.statusRead, State.busy_iff.2 h]

/-! ### `transact` on another buffer -/

/-- R122's loop variables on entering the receive loop, over the buffer of step 1 (R107). -/
def rxStart (buf : List Byte) : RxLoop :=
  { buf := buf, n := 0, exp := if 4 < (buf.getD 1 0).toNat then 8 else 257, excf := false, excode := 0, used := 0 }

/-- R122's outcome of the loop variables on leaving the receive loop (R113 to R115). -/
def RxLoop.outcome (r : RxLoop) : ModbusResult :=
  if r.n ≠ r.exp then .sizeMismatch
  else if r.buf.getD (r.n - 1) 0 ++ r.buf.getD (r.n - 2) 0 ≠ crc16 (r.buf.take (r.n - 2)) then .crcMismatch
  else if r.excf then .slaveException r.excode
  else .ok

/-- `transact` is the receive loop between its start and its outcome. -/
theorem transact_eq (buf : List Byte) (psz : Nat) (ans : Nat → RxAnswer) :
    let r := rxLoop ans 256 (rxStart (withRequestCrc buf psz))
    transact buf psz ans =
      { buf := r.buf, tx := (withRequestCrc buf psz).take (psz + 2), result := r.outcome, rxcnt := r.n, explen := r.exp,
        excf := r.excf, used := r.used } := rfl

/-- The same loop variables over another buffer. -/
def RxLoop.withBuf (r : RxLoop) (buf : List Byte) : RxLoop := { r with buf := buf }

@[simp] theorem RxLoop.receive_fields (r : RxLoop) (b : Byte) :
    (r.receive b).buf = r.buf.set r.n b ∧ (r.receive b).n = r.n + 1 ∧ (r.receive b).used = r.used := by
  simp only [RxLoop.receive]
  split_ifs <;> exact ⟨rfl, rfl, rfl⟩

/-- A received byte leaves an expected length of at least 5 (R111). -/
theorem RxLoop.receive_exp_ge {r : RxLoop} (h : 5 ≤ r.exp) (b : Byte) : 5 ≤ (r.receive b).exp := by
  simp only [RxLoop.receive]
  split_ifs
  · exact h
  · exact Nat.le_refl 5
  · show 5 ≤ 3 + _ + 2
    omega
  · exact h
  · exact h

section Loop

variable {ans : Nat → RxAnswer} {r : RxLoop}

theorem rxLoop_of_ok (hlt : r.n < r.exp ∧ r.n < Config.cap) (hok : (ans r.used).ok = true) (fuel : Nat) :
    rxLoop ans (fuel + 1) r = rxLoop ans fuel { r.receive (ans r.used).byte with used := r.used + 1 } := by
  rw [rxLoop, if_pos hlt, if_pos hok]

theorem rxLoop_of_fail (hlt : r.n < r.exp ∧ r.n < Config.cap) (hok : (ans r.used).ok = false) (fuel : Nat) :
    rxLoop ans (fuel + 1) r = { r with used := r.used + 1 } := by
  rw [rxLoop, if_pos hlt, if_neg (by simp [hok])]

theorem rxLoop_of_end (hge : ¬ (r.n < r.exp ∧ r.n < Config.cap)) (fuel : Nat) : rxLoop ans (fuel + 1) r = r := by
  rw [rxLoop, if_neg hge]

end Loop

theorem rxLoop_exp_ge (ans : Nat → RxAnswer) (fuel : Nat) {r : RxLoop} (h : 5 ≤ r.exp) : 5 ≤ (rxLoop ans fuel r).exp := by
  induction fuel generalizing r with
  | zero => exact h
  | succ fuel ih =>
    by_cases hlt : r.n < r.exp ∧ r.n < Config.cap
    · cases hok : (ans r.used).ok with
      | true =>
        rw [rxLoop_of_ok hlt hok]
        exact ih (RxLoop.receive_exp_ge h _)
      | false =>
        rw [rxLoop_of_fail hlt hok]
        exact h
    · rw [rxLoop_of_end hlt]
      exact h

/-- Two buffers of `CAP` bytes that hold the same first `n` bytes: those received so far. -/
structure SameReceived (n : Nat) (buf buf' : List Byte) : Prop where
  length_left : buf.length = Config.cap
  length_right : buf'.length = Config.cap
  take_eq : buf.take n = buf'.take n

theorem SameReceived.getD_eq {n i : Nat} {buf buf' : List Byte} (h : SameReceived n buf buf') (hi : i < n) :
    buf.getD i 0 = buf'.getD i 0 := by
  have e := congrArg (fun l => l[i]?) h.take_eq
  simp only [List.getElem?_take, if_pos hi] at e
  rw [List.getD_eq_getElem?_getD, e, List.getD_eq_getElem?_getD]

theorem SameReceived.take_eq_of_le {m n : Nat} {buf buf' : List Byte} (h : SameReceived n buf buf') (hm : m ≤ n) :
    buf.take m = buf'.take m := by
  have e := congrArg (List.take m) h.take_eq
  rwa [List.take_take, List.take_take, Nat.min_eq_left hm] at e

/-- The next byte received makes one more byte the same. -/
theorem SameReceived.set {n : Nat} {buf buf' : List Byte} (h : SameReceived n buf buf') (hn : n < Config.cap) (b : Byte) :
    SameReceived (n + 1) (buf.set n b) (buf'.set n b) where
  length_left := by rw [List.length_set, h.length_left]
  length_right := by rw [List.length_set, h.length_right]
  take_eq := by
    have hl := h.length_left
    have hr := h.length_right
    rw [List.take_add_one, List.take_add_one, List.take_set_of_le (Nat.le_refl n), List.take_set_of_le (Nat.le_refl n),
      h.take_eq, List.getElem?_set_self (by omega), List.getElem?_set_self (by omega)]

/-- What a received byte does to the other variables depends on the received bytes alone (R110, R111). -/
theorem RxLoop.receive_withBuf {r : RxLoop} {buf' : List Byte} (h : SameReceived r.n r.buf buf') (hn : r.n < Config.cap)
    (b : Byte) : (r.withBuf buf').receive b = (r.receive b).withBuf (buf'.set r.n b) := by
  have hset := h.set hn b
  unfold RxLoop.receive RxLoop.withBuf
  by_cases h2 : r.n + 1 = 2
  · simp only [h2, if_true, hset.getD_eq (show 1 < r.n + 1 by omega)]
  · by_cases h3 : r.n + 1 = 3
    · simp only [if_neg h2, if_pos h3, hset.getD_eq (show 2 < r.n + 1 by omega)]
      split_ifs <;> rfl
    · simp only [if_neg h2, if_neg h3]

/-- The receive loop over another buffer: every variable but the buffer is the same, and the buffers hold the same received
bytes. -/
theorem rxLoop_withBuf (ans : Nat → RxAnswer) (fuel : Nat) {r : RxLoop} {buf' : List Byte}
    (h : SameReceived r.n r.buf buf') : ∃ buf'', rxLoop ans fuel (r.withBuf buf') = (rxLoop ans fuel r).withBuf buf'' ∧
      SameReceived (rxLoop ans fuel r).n (rxLoop ans fuel r).buf buf'' := by
  induction fuel generalizing r buf' with
  | zero => exact ⟨buf', rfl, h⟩
  | succ fuel ih =>
    by_cases hlt : r.n < r.exp ∧ r.n < Config.cap
    · cases hok : (ans r.used).ok with
      | true =>
        rw [rxLoop_of_ok hlt hok, rxLoop_of_ok (r := r.withBuf buf') hlt hok, RxLoop.receive_withBuf h hlt.2]
        refine ih (r := { r.receive (ans r.used).byte with used := r.used + 1 }) (buf' := buf'.set r.n (ans r.used).byte) ?_
        simpa using h.set hlt.2 (ans r.used).byte
      | false =>
        rw [rxLoop_of_fail hlt hok, rxLoop_of_fail (r := r.withBuf buf') hlt hok]
        exact ⟨buf', rfl, h⟩
    · rw [rxLoop_of_end hlt, rxLoop_of_end (r := r.withBuf buf') hlt]
      exact ⟨buf', rfl, h⟩

/-- The outcome depends on the received bytes alone: a response of the expected length has at least 5 of them. -/
theorem RxLoop.outcome_withBuf {r : RxLoop} {buf' : List Byte} (h : SameReceived r.n r.buf buf') (h5 : 5 ≤ r.exp) :
    (r.withBuf buf').outcome = r.outcome := by
  unfold RxLoop.outcome RxLoop.withBuf
  by_cases hne : r.n ≠ r.exp
  · simp only [if_pos hne]
  · simp only [h.getD_eq (show r.n - 1 < r.n by omega), h.getD_eq (show r.n - 2 < r.n by omega),
      h.take_eq_of_le (Nat.sub_le r.n 2)]

theorem withRequestCrc_length (buf : List Byte) (psz : Nat) : (withRequestCrc buf psz).length = buf.length := by
  simp [withRequestCrc]

/-- The request's CRC lies behind its function code. -/
theorem withRequestCrc_getD_one (buf : List Byte) {psz : Nat} (h : 2 ≤ psz) :
    (withRequestCrc buf psz).getD 1 0 = buf.getD 1 0 := by
  simp only [withRequestCrc, List.getD_eq_getElem?_getD]
  rw [List.getElem?_set_ne (by omega), List.getElem?_set_ne (by omega)]

/-- Two buffers with function codes on the same side of 4 start the loop with the same variables (R107). -/
theorem rxStart_withBuf {buf buf' : List Byte} (h : 4 < (buf.getD 1 0).toNat ↔ 4 < (buf'.getD 1 0).toNat) :
    rxStart buf' = (rxStart buf).withBuf buf' := by
  simp only [rxStart, RxLoop.withBuf, h]

theorem rxStart_exp_ge (buf : List Byte) : 5 ≤ (rxStart buf).exp := by
  unfold rxStart
  split <;> simp

/-- Settles O57: the two receive loops differ in their buffers behind the received bytes, and the outcome reads only those. -/
theorem transactIgnoresOldBuffer : Obligations.TransactIgnoresOldBuffer := by
  intro buf buf' psz psz' ans hl hl' h2 _ h2' _ hfc
  have hside : 4 < ((withRequestCrc buf psz).getD 1 0).toNat ↔ 4 < ((withRequestCrc buf' psz').getD 1 0).toNat := by
    rwa [withRequestCrc_getD_one buf h2, withRequestCrc_getD_one buf' h2']
  have hsame : SameReceived 0 (withRequestCrc buf psz) (withRequestCrc buf' psz') :=
    ⟨(withRequestCrc_length buf psz).trans hl, (withRequestCrc_length buf' psz').trans hl', rfl⟩
  obtain ⟨buf'', hloop, hrecv⟩ := rxLoop_withBuf ans 256 (r := rxStart (withRequestCrc buf psz)) hsame
  have h5 := rxLoop_exp_ge ans 256 (rxStart_exp_ge (withRequestCrc buf psz))
  rw [transact_eq, transact_eq, rxStart_withBuf hside, hloop, RxLoop.outcome_withBuf hrecv h5]
  exact ⟨rfl, rfl, rfl, rfl, rfl, hrecv.take_eq⟩

end Sys2Proof.Machine

namespace Sys2Proof.Machine

/-! ### What the storing commands leave alone -/

/-- A checked command that stores `bs` at `base`, whatever it leaves in `RES` and `CRCREG`, keeps every other byte of `BUF`,
what only `XACT` writes, and the ports (R39, R131). -/
theorem checked_store_frame {bad : Bool} {s t : State} {base : Nat} {bs : List Byte} {v : Word} {c : BitVec 16}
    (h : checked bad s { s.wrBytes base bs with res := v, crcreg := c } = .next t) :
    SameBufOutside base bs.length s t ∧ SameTransaction s t ∧ SamePorts s t := by
  rcases checked_next.1 h with ⟨-, rfl⟩ | ⟨-, rfl⟩
  · exact ⟨fun _ _ => rfl, by and_intros <;> rfl, by and_intros <;> rfl⟩
  · exact ⟨fun _ ha => State.rd_wrBytes_outside s ha, by and_intros <;> rfl, by and_intros <;> rfl⟩

/-- A checked command that stores only leaves `RES` and `CRCREG` too (R70, R72, R73). -/
theorem checked_wrBytes_frame {bad : Bool} {s t : State} {base : Nat} {bs : List Byte}
    (h : checked bad s (s.wrBytes base bs) = .next t) :
    SameBufOutside base bs.length s t ∧ t.res = s.res ∧ t.crcreg = s.crcreg ∧ SameTransaction s t ∧ SamePorts s t := by
  obtain ⟨hbuf, htrans, hports⟩ := checked_store_frame h
  rcases checked_next.1 h with ⟨-, rfl⟩ | ⟨-, rfl⟩ <;> exact ⟨hbuf, rfl, rfl, htrans, hports⟩

/-- Settles O37: `STB`, `ENC16` and `ENC32` store 1, 2 and 4 bytes; `CRC.APP` stores 2 and writes `RES` and `CRCREG`. -/
theorem storingCommandsFrame : Obligations.StoringCommandsFrame :=
  ⟨fun _ _ off byte h => checked_wrBytes_frame (bad := false) (base := off.toNat) (bs := [byte]) h,
   fun _ _ _ value h => checked_wrBytes_frame (bs := bigEndian16 value) h,
   fun _ _ _ value h => checked_wrBytes_frame (bs := bigEndian32 value) h,
   fun s _ len h => checked_store_frame (bs := littleEndian16 (crc16 (s.rdFirst len.toNat))) h⟩

/-! ### Inside and outside the limits of R36 -/

/-- The bounds check of an access is the negation of its limit in R36's table. -/
theorem beyondBuf_eq_not {base n : Nat} {within : Bool} (h : base + n ≤ 256 ↔ within = true) :
    beyondBuf base n = !within := by
  cases hw : within with
  | true => exact beyondBuf_eq_false.2 (h.2 hw)
  | false => exact beyondBuf_iff.2 (Nat.lt_of_not_le fun hle => by simp [h.1 hle] at hw)

/-- Every command but `XACT` is checked against its limit in R36's table, and its effect leaves `STICKY`. -/
theorem exec_eq_checked {i : Instr} (hx : ∀ psize, i ≠ .xact psize) (s : State) :
    ∃ e : State, exec i s = checked (!i.wellFormed) s e ∧ e.sticky = s.sticky := by
  have hchecked : ∀ {bad within : Bool} (e : State), bad = (!within) → checked bad s e = checked (!within) s e :=
    fun e h => by rw [h]
  cases i with
  | stb off byte => exact ⟨_, exec_stb off byte s, rfl⟩
  | ldb off => exact ⟨_, exec_ldb off s, rfl⟩
  | enc16 off value => exact ⟨_, hchecked _ (beyondBuf_eq_not (by simp [Instr.wellFormed]; omega)), rfl⟩
  | enc32 off value => exact ⟨_, hchecked _ (beyondBuf_eq_not (by simp [Instr.wellFormed]; omega)), rfl⟩
  | dec16 off => exact ⟨_, hchecked _ (beyondBuf_eq_not (by simp [Instr.wellFormed]; omega)), rfl⟩
  | dec32 off => exact ⟨_, hchecked _ (beyondBuf_eq_not (by simp [Instr.wellFormed]; omega)), rfl⟩
  | crcGen len => exact ⟨_, hchecked _ (beyondBuf_eq_not (by simp [Instr.wellFormed])), rfl⟩
  | crcApp len => exact ⟨_, hchecked _ (beyondBuf_eq_not (by simp [Instr.wellFormed]; omega)), rfl⟩
  | crcChk len =>
    have hlen : (decide (len.toNat < 2) || beyondBuf len.toNat 0) = !(Instr.crcChk len).wellFormed := by
      rw [beyondBuf_eq_not (within := decide (len.toNat ≤ 256)) (by simp)]
      simp only [Instr.wellFormed, Bool.not_and, ← decide_not, Nat.not_le]
    exact ⟨_, hchecked _ hlen, rfl⟩
  | bldRh addr start count => exact ⟨_, exec_bldRh addr start count s, rfl⟩
  | bldRi addr start count => exact ⟨_, exec_bldRi addr start count s, rfl⟩
  | bldWm addr start count => exact ⟨_, hchecked _ (beyondBuf_eq_not (by simp [Instr.wellFormed]; omega)), rfl⟩
  | xact psize => exact absurd rfl (hx psize)

theorem wellFormed_xact {psize : Half} :
    (Instr.xact psize).wellFormed = true ↔ 2 ≤ psize.toNat ∧ psize.toNat ≤ 254 := by
  simp [Instr.wellFormed]
  omega

/-- Settles O40: a checked command by its limit, `XACT` by its own range check. -/
theorem boundsRaisedExactlyOutsideLimits : Obligations.BoundsRaisedExactlyOutsideLimits := by
  intro i s
  by_cases hx : ∃ psize, i = .xact psize
  · obtain ⟨psize, rfl⟩ := hx
    refine ⟨fun hw => ?_, fun hw => ?_⟩
    · obtain ⟨h2, h254⟩ := wellFormed_xact.1 hw
      exact ⟨_, execXact_of_range h2 h254 s, rfl, rfl⟩
    · have hout : ¬ (2 ≤ psize.toNat ∧ psize.toNat ≤ 254) := fun h => by simp [wellFormed_xact.2 h] at hw
      exact execXact_out_of_range (by omega) s
  · obtain ⟨e, hexec, he⟩ := exec_eq_checked (fun psize hi => hx ⟨psize, hi⟩) s
    rw [hexec]
    exact ⟨fun hw => ⟨_, checked_of_within (by simp [hw]) s e, rfl, he⟩,
      fun hw => checked_of_beyond (by simp [hw]) s e⟩

/-! ### Mixed-width access -/

theorem toNat_offset_add {off : Byte} {k : Nat} (h : off.toNat + k < 256) : (off + .ofNat 8 k).toNat = off.toNat + k := by
  rw [BitVec.toNat_add, BitVec.toNat_ofNat]
  omega

/-- `LDB` as a number (R71). -/
theorem exec_ldb_res (s : State) (off : Byte) :
    ∃ t, exec (.ldb off) s = .next t ∧ t.res.toNat = (s.rd off.toNat).toNat :=
  ⟨_, exec_ldb off s, BitVec.toNat_setWidth_of_le (by decide)⟩

/-- `DEC16` inside its limit, as a number (R74). -/
theorem exec_dec16_res (s : State) {off : Byte} (h : off.toNat + 2 ≤ 256) :
    ∃ t, exec (.dec16 off) s = .next t ∧ t.res.toNat = (s.rd off.toNat).toNat * 256 + (s.rd (off.toNat + 1)).toNat :=
  ⟨_, checked_of_within (beyondBuf_eq_false.2 h) s _,
    (BitVec.toNat_setWidth_of_le (by decide)).trans (s.rd16_toNat off.toNat)⟩

/-- What `ENC32` stored, byte by byte (R31, R73). -/
theorem rd_of_exec_enc32 {s t : State} {off : Byte} {w : Word} (hoff : off.toNat + 4 ≤ 256)
    (h : exec (.enc32 off w) s = .next t) {k : Nat} (hk : k < 4) :
    (t.rd (off.toNat + k)).toNat = w.toNat / 2 ^ (24 - 8 * k) % 256 := by
  obtain rfl := Host.Outcome.next.inj ((checked_of_within (beyondBuf_eq_false.2 hoff) s _).symm.trans h)
  obtain ⟨h0, h1, h2, h3⟩ := s.rd_wrBytes32 off.toNat w
  have hw := w.isLt
  rw [State.rd_retire]
  interval_cases k
  · rw [Nat.add_zero, h0, hiByte_toNat, hiHalf_toNat]; omega
  · rw [h1, loByte_toNat, hiHalf_toNat]; rfl
  · rw [h2, hiByte_toNat, loHalf_toNat]; omega
  · rw [h3, loByte_toNat, loHalf_toNat]; omega

/-- Settles O25: each read of what `ENC32` stored is made of its bytes, and `DEC32` of the two halves `DEC16` reads. -/
theorem mixedWidthReads : Obligations.MixedWidthReads := by
  refine ⟨fun s t off w hoff h => ?_, fun s off hoff => ?_⟩
  · have hbyte := fun k (hk : k < 4) => rd_of_exec_enc32 (by omega) h hk
    have hw := w.isLt
    have dec16At : ∀ k, k < 3 → ∃ u, exec (.dec16 (off + .ofNat 8 k)) t = .next u ∧
        u.res.toNat = w.toNat / 2 ^ (24 - 8 * k) % 256 * 256 + w.toNat / 2 ^ (24 - 8 * (k + 1)) % 256 := fun k hk => by
      have hadd : (off + .ofNat 8 k).toNat = off.toNat + k := toNat_offset_add (by omega)
      obtain ⟨u, hu, hres⟩ := exec_dec16_res t (off := off + .ofNat 8 k) (by omega)
      exact ⟨u, hu, by rw [hres, hadd, hbyte k (by omega), Nat.add_assoc, hbyte (k + 1) (by omega)]⟩
    refine ⟨?_, ?_, ?_, fun k hk => ?_⟩
    · obtain ⟨u, hu, hres⟩ := dec16At 0 (by omega)
      exact ⟨u, by simpa using hu, by omega⟩
    · obtain ⟨u, hu, hres⟩ := dec16At 1 (by omega)
      exact ⟨u, hu, by omega⟩
    · obtain ⟨u, hu, hres⟩ := dec16At 2 (by omega)
      exact ⟨u, hu, by omega⟩
    · obtain ⟨u, hu, hres⟩ := exec_ldb_res t (off + .ofNat 8 k)
      exact ⟨u, hu, by rw [hres, toNat_offset_add (by omega), hbyte k hk]⟩
  · have hadd : (off + 2).toNat = off.toNat + 2 := toNat_offset_add (k := 2) (by omega)
    obtain ⟨hi, hhi, hhires⟩ := exec_dec16_res s (off := off) (by omega)
    obtain ⟨lo, hlo, hlores⟩ := exec_dec16_res s (off := off + 2) (by omega)
    refine ⟨_, hi, lo, checked_of_within (beyondBuf_eq_false.2 (by omega)) s _, hhi, hlo, ?_⟩
    rw [hadd] at hlores
    calc (s.rd32 off.toNat).toNat = (s.rd16 off.toNat).toNat * 65536 + (s.rd16 (off.toNat + 2)).toNat := s.rd32_toNat _
      _ = hi.res.toNat * 65536 + lo.res.toNat := by rw [hhires, hlores, s.rd16_toNat, s.rd16_toNat]

end Sys2Proof.Machine

namespace Sys2Proof.Machine

/-! ### `BUF` as R122's list -/

theorem State.rdFirst_getD (s : State) {n i : Nat} (h : i < n) : (s.rdFirst n).getD i 0 = s.rd i := by
  simp [State.rdFirst, h]

/-- A write to `BUF` is a write to the list of its bytes. -/
theorem State.rdFirst_wr (s : State) (n i : Nat) (b : Byte) : (s.wr i b).rdFirst n = (s.rdFirst n).set i b := by
  refine List.ext_getElem (by simp) fun j hj _ => ?_
  have hj : j < n := by simpa using hj
  rw [List.getElem_set, State.rdFirst_getElem _ hj, State.rdFirst_getElem _ hj, State.rd_wr]
  simp only [eq_comm]

/-- The request with its CRC, as R122 has it (R104). -/
theorem State.rdFirst_appendCrc (s : State) {psz : Nat} (h : psz ≤ 256) :
    (s.appendCrc psz).rdFirst 256 = withRequestCrc (s.rdFirst 256) psz := by
  have hwr : s.appendCrc psz =
      ((s.crcOver psz).wr psz (loByte (crc16 (s.rdFirst psz)))).wr (psz + 1) (hiByte (crc16 (s.rdFirst psz))) := rfl
  rw [hwr, State.rdFirst_wr, State.rdFirst_wr, State.rdFirst_crcOver, withRequestCrc, s.rdFirst_take h]

/-! ### Runs of the busy block -/

/-- A step of a running `XACT`. -/
def BusyStep (s t : State) : Prop := s.phase ≠ .idle ∧ s.resetNow = false ∧ step s = .next t

/-- Steps of a running `XACT`. -/
abbrev BusyRun : State → State → Prop := Relation.ReflTransGen BusyStep

theorem BusyRun.runsTo {s t : State} (h : BusyRun s t) : ∃ k, RunsTo k s t := by
  induction h using Relation.ReflTransGen.head_induction_on with
  | refl => exact ⟨0, .zero t⟩
  | head hstep _ ih =>
    obtain ⟨k, hk⟩ := ih
    exact ⟨k + 1, .succ hstep.2.2 hk⟩

/-- A running `XACT` takes no word from the command port (R51). -/
theorem BusyStep.cmds_eq {s t : State} (h : BusyStep s t) : t.cmds = s.cmds := by
  obtain ⟨hb, hr, ht⟩ := h
  have hsame : step s = .next { t with cmds := s.cmds } := busyStepIgnoresPendingCommands s t s.cmds hb hr ht
  rw [ht] at hsame
  have hcmds := congrArg State.cmds (Host.Outcome.next.inj hsame)
  exact hcmds

/-- What a running `XACT` leaves as it was, to its end (R11, R19, R51). -/
theorem BusyRun.kept {s t : State} (h : BusyRun s t) :
    t.res = s.res ∧ t.cause = s.cause ∧ t.sticky = s.sticky ∧ t.cmds = s.cmds := by
  induction h with
  | refl => exact ⟨rfl, rfl, rfl, rfl⟩
  | tail _ hstep ih =>
    obtain ⟨hres, hcause, hsticky, -⟩ := registersHaveTheirWriters.2 _ _ hstep.1 hstep.2.1 hstep.2.2
    obtain ⟨ihres, ihcause, ihsticky, ihcmds⟩ := ih
    exact ⟨hres.trans ihres, hcause.trans ihcause, hsticky.trans ihsticky, hstep.cmds_eq.trans ihcmds⟩

section Step

variable {s t : State}

theorem busyStep_of_tx (hp : s.phase = .tx) (hn : s.NoReset) (h : stepTx s.pastReset.countBusy = .next t) : BusyStep s t :=
  ⟨by simp [hp], hn.resetNow, (step_of_tx hn.resetNow hp).trans h⟩

theorem busyStep_of_rx (hp : s.phase = .rx) (hn : s.NoReset) (h : stepRx s.pastReset.countBusy = .next t) : BusyStep s t :=
  ⟨by simp [hp], hn.resetNow, (step_of_rx hn.resetNow hp).trans h⟩

theorem busyStep_of_check (hp : s.phase = .check) (hn : s.NoReset) (h : stepCheck s.pastReset.countBusy = .next t) :
    BusyStep s t :=
  ⟨by simp [hp], hn.resetNow, (step_of_check hn.resetNow hp).trans h⟩

end Step

/-! ### Phase `TX` as a whole -/

/-- The events of the request's frame `BUF[0 .. PSZ + 2)` (R105). -/
def State.requestEvents (s : State) : List TransportEvent := txEvents (s.rdFirst (s.psz.toNat + 2))

theorem State.requestEvents_length (s : State) : s.requestEvents.length = s.psz.toNat + 2 := by
  simp [State.requestEvents, txEvents]

/-- One more byte handed over is one more event of the frame, the last one marked (R105). -/
theorem State.take_requestEvents_succ (s : State) {k : Nat} (h : k < s.psz.toNat + 2) :
    s.requestEvents.take (k + 1) = s.requestEvents.take k ++ [.txByte (s.rd k) (k == s.psz.toNat + 1)] := by
  rw [List.take_succ_eq_append_getElem (by rwa [State.requestEvents_length])]
  simp [State.requestEvents, txEvents, State.rdFirst]

/-- `s` is in phase `TX` of the transaction accepted in `s₀`: `TXCNT` bytes of the frame are handed over, and nothing else
that the transaction depends on has changed. -/
structure Sending (s₀ s : State) : Prop where
  noReset : s.NoReset
  phase : s.phase = .tx
  awaiting : s.awaiting = false
  rd : ∀ i, s.rd i = s₀.rd i
  reqfc : s.reqfc = s₀.reqfc
  psz : s.psz = s₀.psz
  psz_le : s₀.psz.toNat + 2 ≤ 256
  txcnt_le : s.txcnt.toNat ≤ s₀.psz.toNat + 2
  bus : s.bus = s₀.bus ++ s₀.requestEvents.take s.txcnt.toNat
  trace : s.trace = s₀.trace
  timeoutMs : s.timeoutMs = s₀.timeoutMs
  rxAns : s.rxAns = s₀.rxAns
  answers : ∀ k, s.answerAt k = s₀.answerAt k

section Sending

variable {s₀ s : State}

theorem Sending.ticked (h : Sending s₀ s) : Sending s₀ s.pastReset.countBusy :=
  { h with noReset := fun level hl => h.noReset level (List.mem_of_mem_tail hl) }

theorem Sending.pastOffer (h : Sending s₀ s) : Sending s₀ s.pastOffer := { h with }

theorem Sending.txByte (h : Sending s₀ s) (hlt : s.txcnt.toNat < s₀.psz.toNat + 2) : Sending s₀ s.txByte := by
  have hle := h.psz_le
  have hcnt : s.txByte.txcnt.toNat = s.txcnt.toNat + 1 := BitVec.toNat_add_of_lt (by simp; omega)
  exact
    { h with
      txcnt_le := by omega
      bus := by rw [hcnt, s₀.take_requestEvents_succ hlt]; simp [h.bus, h.rd, h.psz] }

/-- Phase `TX` comes to its end with the whole frame handed over (R105 to R107): each step takes a byte or a level of the
ready line, which is finite (log 4). -/
theorem Sending.busyRun_enterRx (h : Sending s₀ s) :
    ∃ t, Sending s₀ t ∧ t.txcnt.toNat = s₀.psz.toNat + 2 ∧ BusyRun s t.enterRx := by
  induction hm : s₀.psz.toNat + 2 - s.txcnt.toNat + s.txReady.length using Nat.strong_induction_on generalizing s with
  | _ m ih =>
  have h' := h.ticked
  have hpsz : s.psz.toNat = s₀.psz.toNat := congrArg _ h.psz
  have hcap := h.psz_le
  by_cases hlt : s.txcnt.toNat < s₀.psz.toNat + 2
  · cases hr : s.txReadyNow with
    | true =>
      have hstep := busyStep_of_tx h.phase h.noReset
        (stepTx_of_ready (s := s.pastReset.countBusy) (by simp; omega) (by simp; omega) hr)
      have hcnt : (s.txcnt + 1).toNat = s.txcnt.toNat + 1 := BitVec.toNat_add_of_lt (by simp; omega)
      obtain ⟨t, ht, hall, hrun⟩ := ih (s₀.psz.toNat + 2 - (s.txcnt.toNat + 1) + s.txReady.tail.length)
        (by rw [List.length_tail]; omega) (h'.pastOffer.txByte hlt) (by rw [← hcnt]; simp)
      exact ⟨t, ht, hall, .head hstep hrun⟩
    | false =>
      have hstep := busyStep_of_tx h.phase h.noReset
        (stepTx_of_not_ready (s := s.pastReset.countBusy) (by simp; omega) (by simp; omega) hr)
      have hline := length_tail_lt_of_head hr
      obtain ⟨t, ht, hall, hrun⟩ := ih (s₀.psz.toNat + 2 - s.txcnt.toNat + s.txReady.tail.length) (by omega)
        h'.pastOffer (by simp)
      exact ⟨t, ht, hall, .head hstep hrun⟩
  · have hstep := busyStep_of_tx h.phase h.noReset (stepTx_of_done (s := s.pastReset.countBusy) (by simp; omega))
    have hle := h.txcnt_le
    exact ⟨_, h', by simp; omega, .single hstep⟩

end Sending

/-! ### The receive loop as a whole -/

theorem initialExpLen_toNat_eq (reqfc : Byte) : (initialExpLen reqfc).toNat = if 4 < reqfc.toNat then 8 else 257 := by
  unfold initialExpLen
  split <;> rfl

/-- R111's expected length as a number. -/
theorem resolvedExpLen_toNat (excf : Bool) (explen : Count) (byte2 : Byte) :
    (resolvedExpLen excf explen byte2).toNat =
      if excf then 5 else if explen.toNat = 257 then 3 + byte2.toNat + 2 else explen.toNat := by
  have hb := byte2.isLt
  have h257 : explen = 257 ↔ explen.toNat = 257 := ⟨fun e => e ▸ rfl, fun e => BitVec.eq_of_toNat_eq e⟩
  unfold resolvedExpLen
  simp only [h257]
  split_ifs
  · rfl
  · simp only [BitVec.toNat_add, BitVec.toNat_setWidth, show (3 : Count).toNat = 3 from rfl,
      show (2 : Count).toNat = 2 from rfl]
    omega
  · rfl

/-- The registers of `s` hold the receive loop's variables of R122. -/
structure LoopVars (s : State) (r : RxLoop) : Prop where
  buf : s.rdFirst 256 = r.buf
  rxcnt : s.rxcnt.toNat = r.n
  rxcnt_le : r.n ≤ 256
  explen : s.explen.toNat = r.exp
  excf : s.excf = r.excf
  /-- `EXCODE` holds an older code until the third byte (R111). -/
  excode : r.excf = true → 3 ≤ r.n → s.excode = r.excode

section Receive

variable {s : State} {r : RxLoop}

/-- The received bytes. -/
theorem LoopVars.received (h : LoopVars s r) : s.rdFirst s.rxcnt.toNat = r.buf.take r.n := by
  rw [← h.buf, State.rdFirst_take _ h.rxcnt_le, h.rxcnt]

theorem RxLoop.receive_second (h : r.n + 1 = 2) (b : Byte) :
    r.receive b = { r with
      buf := r.buf.set r.n b
      n := r.n + 1
      excf := r.excf || ((r.buf.set r.n b).getD 1 0).getLsbD 7 } := by
  simp only [RxLoop.receive, if_pos h]

theorem RxLoop.receive_third (h : r.n + 1 = 3) (b : Byte) :
    r.receive b = { r with
      buf := r.buf.set r.n b
      n := r.n + 1
      excode := if r.excf then (r.buf.set r.n b).getD 2 0 else r.excode
      exp := if r.excf then 5 else if r.exp = 257 then 3 + ((r.buf.set r.n b).getD 2 0).toNat + 2 else r.exp } := by
  simp only [RxLoop.receive, if_neg (show r.n + 1 ≠ 2 by omega), if_pos h]
  split_ifs <;> rfl

theorem RxLoop.receive_other (h2 : r.n + 1 ≠ 2) (h3 : r.n + 1 ≠ 3) (b : Byte) :
    r.receive b = { r with buf := r.buf.set r.n b, n := r.n + 1 } := by
  simp only [RxLoop.receive, if_neg h2, if_neg h3]

theorem RxLoop.receive_withUsed (r : RxLoop) (used : Nat) (b : Byte) :
    RxLoop.receive { r with used := used } b = { r.receive b with used := used } := by
  simp only [RxLoop.receive]
  split_ifs <;> rfl

/-- A received byte does to the registers what it does to the loop's variables (R109 to R111). -/
theorem LoopVars.receive (h : LoopVars s r) (hn : r.n < 256) (b : Byte) : LoopVars (s.storeRx b).afterRx (r.receive b) := by
  have hrx := h.rxcnt
  have hcnt : (s.storeRx b).rxcnt.toNat = r.n + 1 := by
    rw [← hrx]
    exact BitVec.toNat_add_of_lt (by simp; omega)
  have hbuf : (s.storeRx b).rdFirst 256 = r.buf.set r.n b := by
    rw [← h.buf, ← hrx]
    exact s.rdFirst_wr 256 s.rxcnt.toNat b
  have hget : ∀ i, i < 256 → (r.buf.set r.n b).getD i 0 = (s.storeRx b).rd i := fun i hi => by
    rw [← hbuf, State.rdFirst_getD _ hi]
  rcases (s.storeRx b).afterRx_cases with ⟨hp, e⟩ | ⟨hp, e⟩ | ⟨hp2, hp3, e⟩ <;> rw [e]
  · have h2 : r.n + 1 = 2 := by rw [← hcnt, hp]; rfl
    rw [RxLoop.receive_second h2, hget 1 (by omega)]
    exact
      { buf := hbuf, rxcnt := hcnt, rxcnt_le := hn, explen := h.explen
        excf := by simp [exceptionFlag, h.excf]
        excode := fun _ h3 => by simp at h3; omega }
  · have h3 : r.n + 1 = 3 := by rw [← hcnt, hp]; rfl
    rw [RxLoop.receive_third h3, hget 2 (by omega)]
    exact
      { buf := hbuf, rxcnt := hcnt, rxcnt_le := hn, excf := h.excf
        explen := by simp [resolvedExpLen_toNat, h.excf, h.explen]
        excode := fun hx _ => by simp [h.excf, show r.excf = true from hx] }
  · have h2 : r.n + 1 ≠ 2 := fun h => hp2 (BitVec.eq_of_toNat_eq (hcnt.trans h))
    have h3 : r.n + 1 ≠ 3 := fun h => hp3 (BitVec.eq_of_toNat_eq (hcnt.trans h))
    rw [RxLoop.receive_other h2 h3]
    exact
      { buf := hbuf, rxcnt := hcnt, rxcnt_le := hn, explen := h.explen, excf := h.excf
        excode := fun hx hle => h.excode hx (by simp at hle; omega) }

/-- With the expected number of bytes received the ErrorMapper gives R122's outcome (R114, R115, R117). -/
theorem LoopVars.errorMapper_eq (h : LoopVars s r) (h5 : 5 ≤ r.exp) (heq : r.n = r.exp) :
    errorMapper true (crc16 (s.rdFirst (s.rxcnt.toNat - 2)) == s.frameCrc s.rxcnt.toNat) s.excf s.excode = r.outcome := by
  have hle := h.rxcnt_le
  have hbody : s.rdFirst (s.rxcnt.toNat - 2) = r.buf.take (r.n - 2) := by
    rw [← h.buf, s.rdFirst_take (by omega), h.rxcnt]
  have hcrc : s.frameCrc s.rxcnt.toNat = r.buf.getD (r.n - 1) 0 ++ r.buf.getD (r.n - 2) 0 := by
    rw [State.frameCrc, ← h.buf, State.rdFirst_getD _ (by omega), State.rdFirst_getD _ (by omega), h.rxcnt]
  rw [hbody, hcrc, h.excf, RxLoop.outcome, if_neg (not_not.2 heq)]
  by_cases hgood : r.buf.getD (r.n - 1) 0 ++ r.buf.getD (r.n - 2) 0 = crc16 (r.buf.take (r.n - 2))
  · rw [hgood, if_neg (not_not.2 rfl), beq_self_eq_true]
    cases hx : r.excf with
    | true => rw [h.excode hx (by omega)]; rfl
    | false => rfl
  · rw [if_pos hgood, beq_eq_false_iff_ne.2 (Ne.symm hgood)]
    rfl

/-- Phase `CHECK` writes the outcome R122 has for the loop's variables (R113 to R116). -/
theorem LoopVars.stepCheck (h : LoopVars s r) (h5 : 5 ≤ r.exp) :
    ∃ c, Machine.stepCheck s = .next (State.finish { s with crcreg := c } r.outcome) := by
  have hrx := h.rxcnt
  have hle := h.rxcnt_le
  have hexp := h.explen
  by_cases heq : r.n = r.exp
  · have heq' : s.rxcnt = s.explen := BitVec.eq_of_toNat_eq (by omega)
    rw [stepCheck_of_eq (by omega) (by omega) heq', h.errorMapper_eq h5 heq]
    exact ⟨_, rfl⟩
  · have hne : s.rxcnt ≠ s.explen := fun e => heq (by rw [← hrx, e, hexp])
    rw [RxLoop.outcome, if_pos heq]
    exact ⟨s.crcreg, stepCheck_of_ne (by omega) hne⟩

end Receive

/-- `s` is in the receive loop, or in phase `CHECK` behind it, of the transaction accepted in `s₀`: its registers hold the
variables `r`, the whole frame is handed over, a read request is issued for each answer used up, and one more is outstanding
when `pending`. -/
structure Mirrors (s₀ : State) (p : Phase) (pending : Bool) (s : State) (r : RxLoop) : Prop extends LoopVars s r where
  noReset : s.NoReset
  phase : s.phase = p
  awaiting : s.awaiting = pending
  bus : s.bus = s₀.bus ++ s₀.requestEvents ++ List.replicate (r.used + pending.toNat) (.readReq s₀.timeoutMs)
  trace : s.trace = s₀.trace
  timeoutMs : s.timeoutMs = s₀.timeoutMs
  rxAns : s.rxAns = s₀.rxAns.drop r.used
  answers : ∀ k, s.answerAt k = s₀.answerAt (r.used + k)

/-- Step 3 sets up the variables R122's loop starts with (R107). -/
theorem Sending.enterRx {s₀ s : State} (h : Sending s₀ s) (hall : s.txcnt.toNat = s₀.psz.toNat + 2)
    (hfc : s₀.reqfc = s₀.rd 1) : Mirrors s₀ .rx false s.enterRx (rxStart (s₀.rdFirst 256)) where
  buf := State.rdFirst_congr fun i _ => h.rd i
  rxcnt := rfl
  rxcnt_le := Nat.zero_le _
  explen := (initialExpLen_toNat_eq s.reqfc).trans (by
    simp only [rxStart, State.rdFirst_getD s₀ (show 1 < 256 by omega), h.reqfc, hfc])
  excf := rfl
  excode := fun hx => by simp [rxStart] at hx
  noReset := h.noReset
  phase := rfl
  awaiting := h.awaiting
  bus := by
    simp [h.bus, hall, rxStart, List.take_of_length_le (Nat.le_of_eq s₀.requestEvents_length)]
  trace := h.trace
  timeoutMs := h.timeoutMs
  rxAns := h.rxAns
  answers := fun k => (h.answers k).trans (by simp [rxStart])

section Loop

variable {s₀ s : State} {p : Phase} {pending : Bool} {r : RxLoop}

theorem Mirrors.ticked (h : Mirrors s₀ p pending s r) : Mirrors s₀ p pending s.pastReset.countBusy r :=
  { h with noReset := fun level hl => h.noReset level (List.mem_of_mem_tail hl) }

theorem Mirrors.pastWait (h : Mirrors s₀ p pending s r) : Mirrors s₀ p pending s.pastWait r := { h with }

theorem Mirrors.request (h : Mirrors s₀ .rx false s r) : Mirrors s₀ .rx true s.request r :=
  { h with
    awaiting := rfl
    bus := by simp [h.bus, h.timeoutMs, List.replicate_succ'] }

/-- The loop's end (R109, R112). -/
theorem Mirrors.enterCheck (h : Mirrors s₀ .rx false s r) : Mirrors s₀ .check false s.enterCheck r :=
  { h with phase := rfl }

/-- An answer used up, the variables as they were. -/
theorem Mirrors.takeAnswer (h : Mirrors s₀ .rx true s r) :
    Mirrors s₀ .rx false s.takeAnswer { r with used := r.used + 1 } :=
  { h with
    awaiting := rfl
    bus := by simp [h.bus]
    rxAns := by simp [h.rxAns]
    answers := fun k => by rw [State.answerAt_takeAnswer, h.answers, Nat.add_comm k 1, Nat.add_assoc] }

/-- A byte received. -/
theorem Mirrors.receive (h : Mirrors s₀ .rx false s r) (hn : r.n < 256) (b : Byte) :
    Mirrors s₀ .rx false (s.storeRx b).afterRx (r.receive b) :=
  { h.toLoopVars.receive hn b with
    noReset := by simpa [State.NoReset] using h.noReset
    phase := by simpa using h.phase
    awaiting := by simpa using h.awaiting
    bus := by simpa using h.bus
    trace := by simpa using h.trace
    timeoutMs := by simpa using h.timeoutMs
    rxAns := by simpa using h.rxAns
    answers := by simpa [State.answerAt] using h.answers }

/-- The answer to an outstanding request comes: the answer line is finite (log 16). -/
theorem Mirrors.busyRun_ready (h : Mirrors s₀ .rx true s r) (hn : r.n < 256) :
    ∃ t, BusyRun s t ∧ t.rxReadyNow = true ∧ Mirrors s₀ .rx true t r := by
  induction hl : s.rxReady generalizing s with
  | nil => exact ⟨s, .refl, by simp [State.rxReadyNow, hl], h⟩
  | cons level rest ih =>
    cases level with
    | true => exact ⟨s, .refl, by simp [State.rxReadyNow, hl], h⟩
    | false =>
      have hstep := busyStep_of_rx h.phase h.noReset (stepRx_of_wait (s := s.pastReset.countBusy) h.awaiting
        (h.rxcnt ▸ hn) (by simp [State.rxReadyNow, hl]))
      obtain ⟨t, hrun, ht⟩ := ih h.ticked.pastWait (by simp [hl])
      exact ⟨t, .head hstep hrun, ht⟩

theorem Mirrors.busyStep_request (h : Mirrors s₀ .rx false s r) (hlt : r.n < r.exp ∧ r.n < 256) :
    BusyStep s s.pastReset.countBusy.request :=
  busyStep_of_rx h.phase h.noReset (stepRx_of_request h.awaiting (by simp [h.rxcnt, h.explen, hlt.1]) (h.rxcnt ▸ hlt.2))

theorem Mirrors.busyStep_end (h : Mirrors s₀ .rx false s r) (hge : ¬ (r.n < r.exp ∧ r.n < 256)) :
    BusyStep s s.pastReset.countBusy.enterCheck :=
  busyStep_of_rx h.phase h.noReset (stepRx_of_end h.awaiting (by simp [h.rxcnt, h.explen]; omega))

/-- The machine's receive loop runs through the turns of R122's, and no turn is missing: each counts a byte. -/
theorem Mirrors.busyRun_loop {fuel : Nat} (h : Mirrors s₀ .rx false s r) (hfuel : 256 ≤ r.n + fuel) :
    ∃ t, BusyRun s t ∧ Mirrors s₀ .check false t (rxLoop s₀.answerAt fuel r) := by
  induction fuel generalizing s r with
  | zero => exact ⟨_, .single (h.busyStep_end (by omega)), h.ticked.enterCheck⟩
  | succ fuel ih =>
    by_cases hlt : r.n < r.exp ∧ r.n < Config.cap
    · have hlt' : r.n < r.exp ∧ r.n < 256 := hlt
      obtain ⟨u, hwait, hr, hu⟩ := h.ticked.request.busyRun_ready hlt'.2
      have hwait : BusyRun s u := .head (h.busyStep_request hlt') hwait
      have hans : s₀.answerAt r.used = u.answerAt 0 := (hu.answers 0).symm
      have hc : u.rxcnt.toNat < 256 := hu.rxcnt ▸ hlt'.2
      have hu' := hu.ticked.pastWait.takeAnswer
      cases hok : (s₀.answerAt r.used).ok with
      | true =>
        have hstep := busyStep_of_rx hu.phase hu.noReset
          (stepRx_of_ok (s := u.pastReset.countBusy) hu.awaiting hc hr (hans ▸ hok))
        obtain ⟨t, hrun, ht⟩ := ih (hu'.receive hlt'.2 (u.answerAt 0).byte) (by simp; omega)
        rw [rxLoop_of_ok hlt hok, hans, ← RxLoop.receive_withUsed]
        exact ⟨t, hwait.trans (.head hstep hrun), ht⟩
      | false =>
        have hstep := busyStep_of_rx hu.phase hu.noReset
          (stepRx_of_fail (s := u.pastReset.countBusy) hu.awaiting hc hr (hans ▸ hok))
        rw [rxLoop_of_fail hlt hok]
        exact ⟨_, hwait.tail hstep, hu'.enterCheck⟩
    · rw [rxLoop_of_end hlt]
      exact ⟨_, .single (h.busyStep_end hlt), h.ticked.enterCheck⟩

end Loop

/-! ### The whole command -/

/-- The state an accepted `XACT` begins in (R103 to R105). -/
def State.begun (s : State) (psize : Half) : State :=
  ((s.acceptXact psize).appendCrc psize.toNat).emit
    (.txFrame (((s.acceptXact psize).appendCrc psize.toNat).rdFirst (psize.toNat + 2)))

section Begun

variable {s : State} {psize : Half}

theorem State.rdFirst_begun (h254 : psize.toNat ≤ 254) :
    (s.begun psize).rdFirst 256 = withRequestCrc (s.rdFirst 256) psize.toNat :=
  (s.acceptXact psize).rdFirst_appendCrc (by omega)

theorem State.begun_psz (h254 : psize.toNat ≤ 254) : (s.begun psize).psz.toNat = psize.toNat := by
  simp [State.begun]; omega

/-- The request's frame is R122's `tx` (R105). -/
theorem State.frame_begun (h254 : psize.toNat ≤ 254) : (s.begun psize).rdFirst (psize.toNat + 2) =
    (withRequestCrc (s.rdFirst 256) psize.toNat).take (psize.toNat + 2) := by
  rw [← State.rdFirst_begun h254, State.rdFirst_take _ (by omega)]

theorem State.trace_begun (h254 : psize.toNat ≤ 254) : (s.begun psize).trace =
    s.trace ++ [.txFrame ((withRequestCrc (s.rdFirst 256) psize.toNat).take (psize.toNat + 2))] := by
  rw [← State.frame_begun h254]
  rfl

theorem State.requestEvents_begun (h254 : psize.toNat ≤ 254) : (s.begun psize).requestEvents =
    txEvents ((withRequestCrc (s.rdFirst 256) psize.toNat).take (psize.toNat + 2)) := by
  rw [State.requestEvents, State.begun_psz h254, State.frame_begun h254]

/-- An accepted `XACT` begins phase `TX` with nothing handed over. -/
theorem State.sending_begun (hn : (s.begun psize).NoReset) (ha : s.awaiting = false) (h254 : psize.toNat ≤ 254) :
    Sending (s.begun psize) (s.begun psize) where
  noReset := hn
  phase := rfl
  awaiting := ha
  rd := fun _ => rfl
  reqfc := rfl
  psz := rfl
  psz_le := by rw [State.begun_psz h254]; omega
  txcnt_le := Nat.zero_le _
  bus := (List.append_nil _).symm
  trace := rfl
  timeoutMs := rfl
  rxAns := rfl
  answers := fun _ => rfl

end Begun

/-- Settles O55: phase `TX` hands the frame over, the receive loop mirrors R122's, phase `CHECK` writes its outcome. -/
theorem xactRunsAsTransact : Obligations.XactRunsAsTransact := by
  intro s w rest psize hw hd h2 h254 hn ha
  have hacc : step s = .next ((s.taken rest).begun psize) :=
    (step_of_presents hw).trans ((accept_cmd hd _).trans (execXact_of_range h2 h254 _))
  have hfc : ((s.taken rest).begun psize).reqfc = ((s.taken rest).begun psize).rd 1 :=
    (((s.taken rest).acceptXact psize).rd_appendCrc_outside (.inl (by omega))).symm
  obtain ⟨u, hu, hall, htx⟩ := (State.sending_begun (s := s.taken rest) (hn.step hacc) ha h254).busyRun_enterRx
  obtain ⟨v, hrx, hv⟩ := (hu.enterRx hall hfc).busyRun_loop (fuel := 256) (Nat.le_add_left 256 _)
  have hstart : rxLoop ((s.taken rest).begun psize).answerAt 256 (rxStart (((s.taken rest).begun psize).rdFirst 256)) =
      rxLoop s.answerAt 256 (rxStart (withRequestCrc (s.rdFirst 256) psize.toNat)) := by
    rw [State.rdFirst_begun h254]
    rfl
  rw [hstart] at hv
  obtain ⟨c, hcheck⟩ := hv.ticked.toLoopVars.stepCheck (rxLoop_exp_ge _ _ (rxStart_exp_ge _))
  have hbusy := (htx.trans hrx).tail (busyStep_of_check hv.phase hv.noReset hcheck)
  obtain ⟨k, hrun⟩ := BusyRun.runsTo hbusy
  obtain ⟨hres, hcause, hsticky, hcmds⟩ := BusyRun.kept hbusy
  refine ⟨_, k + 1, _, (transact_eq _ _ _).symm, .succ hacc hrun, rfl, hv.awaiting, rfl, hv.buf, rfl, hv.rxcnt, hv.explen,
    hv.excf, hcause, hsticky, hres, hcmds, hv.rxAns, ?_, ?_⟩
  · refine hv.bus.trans ?_
    rw [State.requestEvents_begun h254]
    rfl
  · show v.trace ++ errorTrace _ ++ [.rxFrame (v.rdFirst v.rxcnt.toNat)] = _
    rw [hv.trace, State.trace_begun h254, hv.received]
    rfl

end Sys2Proof.Machine

namespace Sys2Proof

/-! ### Encoding and decoding, command by command -/

/-- The fields of a command's word are its operands, each where its format has it (R52, R56). -/
theorem decode_encode (i : Instr) : decode (encode i) = .cmd i := by
  cases i with
  | stb off byte =>
    rw [encode, decode_stb (fieldOp_packFields ..)]
    rw [fieldA_packFields, fieldB_packFields, fieldC_packFields, extractLsb'_append_hi 0#8 byte, extractLsb'_append_lo 0#8 byte]
    rfl
  | ldb off => rw [encode, decode_ldb (fieldOp_packFields ..)]; simp [requireZero]
  | enc16 off value => rw [encode, decode_enc16 (fieldOp_packFields ..)]; simp [requireZero]
  | enc32 off value => rw [encode, decode_enc32 (fieldOp_packFields ..)]; simp [append_extractLsb' (n := 16) (m := 16)]
  | dec16 off => rw [encode, decode_dec16 (fieldOp_packFields ..)]; simp [requireZero]
  | dec32 off => rw [encode, decode_dec32 (fieldOp_packFields ..)]; simp [requireZero]
  | crcGen len => rw [encode, decode_crcGen (fieldOp_packFields ..)]; simp [requireZero]
  | crcApp len => rw [encode, decode_crcApp (fieldOp_packFields ..)]; simp [requireZero]
  | crcChk len => rw [encode, decode_crcChk (fieldOp_packFields ..)]; simp [requireZero]
  | bldRh addr start count => rw [encode, decode_bldRh (fieldOp_packFields ..)]; simp
  | bldRi addr start count => rw [encode, decode_bldRi (fieldOp_packFields ..)]; simp
  | bldWm addr start count => rw [encode, decode_bldWm (fieldOp_packFields ..)]; simp
  | xact psize => rw [encode, decode_xact (fieldOp_packFields ..)]; simp [requireZero]

/-- Settles O1: the decoder's branch for the command's opcode reads its operands back. -/
theorem decodeInvertsEncode : Obligations.DecodeInvertsEncode := decode_encode

/-- A word with these four fields is the word packed from them (R50). -/
theorem packFields_eq {w : CmdWord} {op a : Byte} {b c : Half} (hop : fieldOp w = op) (ha : fieldA w = a)
    (hb : fieldB w = b) (hc : fieldC w = c) : packFields op a b c = w := by
  rw [← hop, ← ha, ← hb, ← hc, packFields_fields]

/-- Two must-be-zero fields of a decoded command are 0 (R54). -/
theorem requireZero_two {n m : Nat} {x : BitVec n} {y : BitVec m} {i j : Instr}
    (h : requireZero (x == 0 && y == 0) i = .cmd j) : x = 0 ∧ y = 0 ∧ i = j := by
  obtain ⟨hz, hij⟩ := requireZero_cmd.1 h
  simpa [hij] using hz

/-- Each decoder branch keeps the fields its format uses and asks the others to be 0, so the word is packed again from
the operands (R52). -/
theorem encode_of_decode {w : CmdWord} {i : Instr} (h : decode w = .cmd i) : encode i = w := by
  obtain hop | hop | hop | hop | hop | hop | hop | hop | hop | hop | hop | hop | hop | hill := fieldOp_cases w
  · obtain ⟨hb, hc, rfl⟩ := requireZero_two ((decode_stb hop).symm.trans h)
    exact packFields_eq hop rfl hb (hc ▸ append_extractLsb' (n := 8) (m := 8) (fieldC w)).symm
  · obtain ⟨hb, hc, rfl⟩ := requireZero_two ((decode_ldb hop).symm.trans h)
    exact packFields_eq hop rfl hb hc
  · obtain ⟨hb, rfl⟩ := requireZero_cmd.1 ((decode_enc16 hop).symm.trans h)
    exact packFields_eq hop rfl (beq_iff_eq.1 hb) rfl
  · obtain rfl := Decoded.cmd.inj ((decode_enc32 hop).symm.trans h)
    exact packFields_eq hop rfl (extractLsb'_append_hi ..).symm (extractLsb'_append_lo ..).symm
  · obtain ⟨hb, hc, rfl⟩ := requireZero_two ((decode_dec16 hop).symm.trans h)
    exact packFields_eq hop rfl hb hc
  · obtain ⟨hb, hc, rfl⟩ := requireZero_two ((decode_dec32 hop).symm.trans h)
    exact packFields_eq hop rfl hb hc
  · obtain ⟨ha, hb, rfl⟩ := requireZero_two ((decode_crcGen hop).symm.trans h)
    exact packFields_eq hop ha hb rfl
  · obtain ⟨ha, hb, rfl⟩ := requireZero_two ((decode_crcApp hop).symm.trans h)
    exact packFields_eq hop ha hb rfl
  · obtain ⟨ha, hb, rfl⟩ := requireZero_two ((decode_crcChk hop).symm.trans h)
    exact packFields_eq hop ha hb rfl
  · obtain rfl := Decoded.cmd.inj ((decode_bldRh hop).symm.trans h)
    exact packFields_eq hop rfl rfl rfl
  · obtain rfl := Decoded.cmd.inj ((decode_bldRi hop).symm.trans h)
    exact packFields_eq hop rfl rfl rfl
  · obtain rfl := Decoded.cmd.inj ((decode_bldWm hop).symm.trans h)
    exact packFields_eq hop rfl rfl rfl
  · obtain ⟨ha, hb, rfl⟩ := requireZero_two ((decode_xact hop).symm.trans h)
    exact packFields_eq hop ha hb rfl
  · exact absurd (hill.symm.trans h) nofun

/-- Settles O2: the decoder's branch for the word's opcode accounts for all four fields. -/
theorem encodeInvertsDecode : Obligations.EncodeInvertsDecode := fun _ _ h => encode_of_decode h

/-! ### The opcode map, field by field -/

/-- The row of R53 that fixes `OP` and asks the bits of `a`, `b`, `c` to be 0 in the fields `A`, `B`, `C`. -/
def OpRow.ofFields (name : String) (op a : Byte) (b c : Half) : OpRow :=
  ⟨name, packFields op 0 0 0, packFields 0xFF a b c⟩

theorem opcodeRows_eq_ofFields : opcodeRows =
    [.ofFields "STB" 0x01 0 0xFFFF 0xFF00, .ofFields "LDB" 0x02 0 0xFFFF 0xFFFF, .ofFields "ENC16" 0x03 0 0xFFFF 0,
     .ofFields "ENC32" 0x04 0 0 0, .ofFields "DEC16" 0x05 0 0xFFFF 0xFFFF, .ofFields "DEC32" 0x06 0 0xFFFF 0xFFFF,
     .ofFields "CRC.GEN" 0x10 0xFF 0xFFFF 0, .ofFields "CRC.APP" 0x11 0xFF 0xFFFF 0, .ofFields "CRC.CHK" 0x12 0xFF 0xFFFF 0,
     .ofFields "BLD.RH" 0x20 0 0 0, .ofFields "BLD.RI" 0x21 0 0 0, .ofFields "BLD.WM" 0x22 0 0 0,
     .ofFields "XACT" 0x30 0xFF 0xFFFF 0] := rfl

/-- R53's opcode values are those of the rows. -/
theorem mem_opcodeValues {op : Byte} : op ∈ Machine.opcodeValues ↔ ∃ r ∈ opcodeRows, op = fieldOp r.pattern := by
  rw [show Machine.opcodeValues = opcodeRows.map (fun r => fieldOp r.pattern) from rfl, List.mem_map]
  simp only [eq_comm]

section Covers

variable {w : CmdWord} {name : String} {op a : Byte} {b c : Half}

theorem packFields_inj {op' a' : Byte} {b' c' : Half} :
    packFields op a b c = packFields op' a' b' c' ↔ op = op' ∧ a = a' ∧ b = b' ∧ c = c' := by
  refine ⟨fun h => ⟨?_, ?_, ?_, ?_⟩, fun ⟨hop, ha, hb, hc⟩ => by rw [hop, ha, hb, hc]⟩
  · simpa using congrArg fieldOp h
  · simpa using congrArg fieldA h
  · simpa using congrArg fieldB h
  · simpa using congrArg fieldC h

/-- A row covers a word field by field. -/
theorem OpRow.covers_ofFields : (ofFields name op a b c).covers w = true ↔
    fieldOp w = op ∧ fieldA w &&& a = 0 ∧ fieldB w &&& b = 0 ∧ fieldC w &&& c = 0 := by
  rw [OpRow.covers, beq_iff_eq, ofFields, ← packFields_fields w, Laws.and_packFields, packFields_inj, packFields_fields w,
    show (0xFF : Byte) = 0xFF#8 from rfl, Laws.and_allOnes8]

/-- The bits of the mask 0xFF00 are the high byte. -/
theorem and_highByte_eq_zero {v : Half} : v &&& 0xFF00#16 = 0#16 ↔ v.extractLsb' 8 8 = 0#8 := by
  have hand : v &&& 0xFF00#16 = v.extractLsb' 8 8 ++ 0#8 := calc
    v &&& 0xFF00#16 = (v.extractLsb' 8 8 ++ v.extractLsb' 0 8) &&& (0xFF#8 ++ 0#8) :=
      congrArg (· &&& _) (append_extractLsb' (n := 8) (m := 8) v).symm
    _ = v.extractLsb' 8 8 ++ 0#8 := by rw [BitVec.and_append, Laws.and_allOnes8, BitVec.and_zero]
  rw [hand]
  exact BitVec.append_left_inj (s₂ := 0#8) 0#8

/-! A word with the row's opcode is covered when the must-be-zero fields of its format are 0 (R52). -/

theorem covers_of_offb (hop : fieldOp w = op) :
    (OpRow.ofFields name op 0 0xFFFF 0xFF00).covers w = (fieldB w == 0 && (fieldC w).extractLsb' 8 8 == 0) := by
  rw [Bool.eq_iff_iff, OpRow.covers_ofFields]
  simp [hop, Laws.and_allOnes16, and_highByte_eq_zero]

theorem covers_of_off (hop : fieldOp w = op) :
    (OpRow.ofFields name op 0 0xFFFF 0xFFFF).covers w = (fieldB w == 0 && fieldC w == 0) := by
  rw [Bool.eq_iff_iff, OpRow.covers_ofFields]
  simp [hop, Laws.and_allOnes16]

theorem covers_of_offh (hop : fieldOp w = op) : (OpRow.ofFields name op 0 0xFFFF 0).covers w = (fieldB w == 0) := by
  rw [Bool.eq_iff_iff, OpRow.covers_ofFields]
  simp [hop, Laws.and_allOnes16]

theorem covers_of_len (hop : fieldOp w = op) :
    (OpRow.ofFields name op 0xFF 0xFFFF 0).covers w = (fieldA w == 0 && fieldB w == 0) := by
  rw [Bool.eq_iff_iff, OpRow.covers_ofFields]
  simp [hop, Laws.and_allOnes8, Laws.and_allOnes16]

theorem covers_of_full (hop : fieldOp w = op) : (OpRow.ofFields name op 0 0 0).covers w = true := by
  simp [OpRow.covers_ofFields, hop]

end Covers

theorem exists_requireZero_covers {w : CmdWord} {r : OpRow} {zero : Bool} {i : Instr} (hc : r.covers w = zero)
    (hd : decode w = requireZero zero i) : ∃ i, decode w = requireZero (r.covers w) i := ⟨i, hc.symm ▸ hd⟩

/-- A word with a row's opcode is the row's command when the row covers it, and `RSVD` when not (R53, R54). -/
theorem decode_of_row {w : CmdWord} {r : OpRow} (hr : r ∈ opcodeRows) (hop : fieldOp w = fieldOp r.pattern) :
    ∃ i, decode w = requireZero (r.covers w) i := by
  simp only [opcodeRows_eq_ofFields, List.mem_cons, List.not_mem_nil, or_false] at hr
  obtain rfl | rfl | rfl | rfl | rfl | rfl | rfl | rfl | rfl | rfl | rfl | rfl | rfl := hr <;>
    simp only [OpRow.ofFields, fieldOp_packFields] at hop
  · exact exists_requireZero_covers (covers_of_offb hop) (decode_stb hop)
  · exact exists_requireZero_covers (covers_of_off hop) (decode_ldb hop)
  · exact exists_requireZero_covers (covers_of_offh hop) (decode_enc16 hop)
  · exact exists_requireZero_covers (covers_of_full hop) (decode_enc32 hop)
  · exact exists_requireZero_covers (covers_of_off hop) (decode_dec16 hop)
  · exact exists_requireZero_covers (covers_of_off hop) (decode_dec32 hop)
  · exact exists_requireZero_covers (covers_of_len hop) (decode_crcGen hop)
  · exact exists_requireZero_covers (covers_of_len hop) (decode_crcApp hop)
  · exact exists_requireZero_covers (covers_of_len hop) (decode_crcChk hop)
  · exact exists_requireZero_covers (covers_of_full hop) (decode_bldRh hop)
  · exact exists_requireZero_covers (covers_of_full hop) (decode_bldRi hop)
  · exact exists_requireZero_covers (covers_of_full hop) (decode_bldWm hop)
  · exact exists_requireZero_covers (covers_of_len hop) (decode_xact hop)

theorem fieldOp_mask {r : OpRow} (hr : r ∈ opcodeRows) : fieldOp r.mask = 0xFF#8 :=
  (by decide : ∀ r ∈ opcodeRows, fieldOp r.mask = 0xFF#8) r hr

/-- A row covers only words with its opcode (R53). -/
theorem fieldOp_of_covers {w : CmdWord} {r : OpRow} (hr : r ∈ opcodeRows) (hc : r.covers w = true) :
    fieldOp w = fieldOp r.pattern := calc
  fieldOp w = fieldOp w &&& fieldOp r.mask := by rw [fieldOp_mask hr, Laws.and_allOnes8]
  _ = fieldOp (w &&& r.mask) := BitVec.extractLsb'_and.symm
  _ = fieldOp r.pattern := by rw [beq_iff_eq.1 hc]

/-- A covered word is a command (R53). -/
theorem decode_of_covers {w : CmdWord} {r : OpRow} (hr : r ∈ opcodeRows) (hc : r.covers w = true) :
    ∃ i, decode w = .cmd i := by
  obtain ⟨i, hi⟩ := decode_of_row hr (fieldOp_of_covers hr hc)
  exact ⟨i, by rw [hi, hc]; rfl⟩

/-- A word with a row's opcode that the row does not cover is `RSVD` (R54). -/
theorem decode_of_not_covers {w : CmdWord} {r : OpRow} (hr : r ∈ opcodeRows) (hop : fieldOp w = fieldOp r.pattern)
    (hc : r.covers w = false) : decode w = .rsvd := by
  obtain ⟨i, hi⟩ := decode_of_row hr hop
  rw [hi, hc]
  rfl

/-- A word is a command exactly when a row covers it. -/
theorem decode_cmd_iff {w : CmdWord} : (∃ i, decode w = .cmd i) ↔ ∃ r ∈ opcodeRows, r.covers w = true := by
  refine ⟨fun ⟨i, hi⟩ => ?_, fun ⟨r, hr, hc⟩ => decode_of_covers hr hc⟩
  by_contra! hno
  by_cases hop : fieldOp w ∈ Machine.opcodeValues
  · obtain ⟨r, hr, hop⟩ := mem_opcodeValues.1 hop
    exact absurd (hi.symm.trans (decode_of_not_covers hr hop (Bool.eq_false_iff.2 (hno r hr)))) nofun
  · exact absurd (hi.symm.trans (decode_illop hop)) nofun

/-- A word is `ILLOP` exactly when its opcode is none of R53's (R55). -/
theorem decode_illop_iff {w : CmdWord} : decode w = .illop ↔ fieldOp w ∉ Machine.opcodeValues := by
  refine ⟨fun h hop => ?_, decode_illop⟩
  obtain ⟨r, hr, hop⟩ := mem_opcodeValues.1 hop
  obtain ⟨i, hi⟩ := decode_of_row hr hop
  rw [hi] at h
  cases hc : r.covers w <;> simp [hc, requireZero] at h

/-- A word is `RSVD` exactly when its opcode is one of R53's and no row covers it (R54). -/
theorem decode_rsvd_iff {w : CmdWord} :
    decode w = .rsvd ↔ fieldOp w ∈ Machine.opcodeValues ∧ ∀ r ∈ opcodeRows, r.covers w = false := by
  constructor
  · intro h
    refine ⟨not_not.1 fun hop => absurd (h.symm.trans (decode_illop_iff.2 hop)) nofun, fun r hr => ?_⟩
    refine Bool.eq_false_iff.2 fun hc => ?_
    obtain ⟨i, hi⟩ := decode_of_covers hr hc
    exact absurd (h.symm.trans hi) nofun
  · rintro ⟨hop, hno⟩
    obtain ⟨r, hr, hop⟩ := mem_opcodeValues.1 hop
    exact decode_of_not_covers hr hop (hno r hr)

end Sys2Proof

namespace Sys2Proof.Machine

/-! ### What a step does with a word -/

/-- Settles O3: the decoder's branches are the rows of the opcode map. -/
theorem everyWordIsClassified : Obligations.EveryWordIsClassified :=
  ⟨fun _ => ⟨decode_illop_iff, decode_cmd_iff, decode_rsvd_iff⟩,
   fun _ _ _ hw hop => (step_of_presents hw).trans (accept_illop (decode_illop_iff.2 hop) _)⟩

/-- Settles O4: the word is `RSVD`, and a step raises it. -/
theorem reservedBitRaisesRsvd : Obligations.ReservedBitRaisesRsvd :=
  fun _ _ _ _ hw hr hop hc => (step_of_presents hw).trans (accept_rsvd (decode_of_not_covers hr hop hc) _)

/-- Settles O7: the step accepts the word, and the decoder names the command. -/
theorem stepRunsDecodedCommand : Obligations.StepRunsDecodedCommand :=
  fun _ _ _ _ hw hd => (step_of_presents hw).trans (accept_cmd hd _)

/-! ### The assembler -/

/-- Settles O6: the check each line has to pass is the limit on its computed field, and a line that fails it is rejected. -/
theorem pseudoInstructionsExpand : Obligations.PseudoInstructionsExpand := by
  refine ⟨rfl, fun count => ?xactW, fun k value => ?streg, fun k => ?ldreg, fun k => ?ldreg32⟩ <;>
    simp only [assemble, AsmLine.wellFormed, ← Bool.decide_and, Bool.not_eq_true', decide_eq_false_iff_not, ite_not]

/-! ### A response of the resolved length -/

/-- `resp` has the length R111 resolves to, from the length of step 3, `start` (R59 to R61, R107). -/
structure ResolvesTo (start : Nat) (resp : List Byte) : Prop where
  start_eq : start = 8 ∨ start = 257
  length_ge : 5 ≤ resp.length
  length_le : resp.length ≤ Config.cap
  length_eq : (if (resp.getD 1 0).getLsbD 7 then 5 else if start = 257 then 3 + (resp.getD 2 0).toNat + 2 else start) =
    resp.length

/-- The receive loop has received the first `r.n` bytes of `resp`, one answer a byte. -/
structure HoldsFirst (resp : List Byte) (r : RxLoop) : Prop where
  n_le : r.n ≤ resp.length
  used_eq : r.used = r.n
  buf_length : r.buf.length = Config.cap
  take_eq : r.buf.take r.n = resp.take r.n

/-- The receive loop has received the first bytes of `resp`, and holds what R110 and R111 read off them. -/
structure Received (start : Nat) (resp : List Byte) (r : RxLoop) : Prop extends HoldsFirst resp r where
  excf_eq : r.excf = (decide (2 ≤ r.n) && (resp.getD 1 0).getLsbD 7)
  exp_eq : r.exp = if r.n < 3 then start else resp.length
  excode_eq : 3 ≤ r.n → r.excf = true → r.excode = resp.getD 2 0

section Received

variable {start : Nat} {resp : List Byte} {r : RxLoop} {ans : Nat → RxAnswer}

theorem received_rxStart {buf : List Byte} (hl : buf.length = Config.cap)
    (hs : start = if 4 < (buf.getD 1 0).toNat then 8 else 257) : Received start resp (rxStart buf) where
  n_le := Nat.zero_le _
  used_eq := rfl
  buf_length := hl
  take_eq := rfl
  excf_eq := rfl
  exp_eq := hs.symm
  excode_eq := nofun

/-- Before the last byte the loop goes on, at the last byte it ends (R109, R112). -/
theorem Received.continues_iff (h : Received start resp r) (hr : ResolvesTo start resp) :
    r.n < r.exp ∧ r.n < Config.cap ↔ r.n < resp.length := by
  have hs := hr.start_eq
  have hge := hr.length_ge
  have hle := hr.length_le
  have hexp := h.exp_eq
  split at hexp <;> omega

/-- The next byte of the response is stored behind those received. -/
theorem HoldsFirst.receive (h : HoldsFirst resp r) (hle : resp.length ≤ Config.cap) (hlt : r.n < resp.length) :
    HoldsFirst resp { r.receive (resp.getD r.n 0) with used := r.used + 1 } := by
  have hlen := h.buf_length
  obtain ⟨hbuf, hn, -⟩ := r.receive_fields (resp.getD r.n 0)
  refine { n_le := ?n_le, used_eq := ?used_eq, buf_length := ?buf_length, take_eq := ?take_eq } <;> simp only [hbuf, hn]
  case n_le => exact hlt
  case used_eq => rw [h.used_eq]
  case buf_length => rw [List.length_set, hlen]
  case take_eq =>
    rw [List.take_add_one, List.take_add_one, List.take_set_of_le (Nat.le_refl _), h.take_eq,
      List.getElem?_set_self (by omega), List.getD_eq_getElem _ _ hlt, List.getElem?_eq_getElem hlt]

/-- The byte just stored reads back. -/
theorem HoldsFirst.getD_set (h : HoldsFirst resp r) (hlt : r.n < Config.cap) {i : Nat} (hi : r.n = i) :
    (r.buf.set r.n (resp.getD r.n 0)).getD i 0 = resp.getD i 0 := by
  rw [← hi, List.getD_eq_getElem?_getD, List.getElem?_set_self (h.buf_length ▸ hlt), Option.getD_some]

/-- The next byte of the response received: the second sets the exception flag, the third the expected length, and no
other byte either of them (R110, R111). -/
theorem Received.receive (h : Received start resp r) (hr : ResolvesTo start resp) (hlt : r.n < resp.length) :
    Received start resp { r.receive (resp.getD r.n 0) with used := r.used + 1 } := by
  have hget := fun i => h.getD_set (Nat.lt_of_lt_of_le hlt hr.length_le) (i := i)
  have hfirst := h.toHoldsFirst.receive hr.length_le hlt
  have hexcf := h.excf_eq
  have hexp := h.exp_eq
  obtain h2 | h3 | ⟨h2, h3⟩ : r.n + 1 = 2 ∨ r.n + 1 = 3 ∨ r.n + 1 ≠ 2 ∧ r.n + 1 ≠ 3 := by omega
  · have hn : r.n = 1 := by omega
    rw [RxLoop.receive_second h2, hget 1 hn] at hfirst ⊢
    exact
      { hfirst with
        excf_eq := by simp [hn, hexcf]
        exp_eq := by simp [hn, hexp]
        excode_eq := fun h3 => by simp [hn] at h3 }
  · have hn : r.n = 2 := by omega
    rw [RxLoop.receive_third h3, hget 2 hn] at hfirst ⊢
    exact
      { hfirst with
        excf_eq := by simp [hn, hexcf]
        exp_eq := by simpa [hn, hexcf, hexp] using hr.length_eq
        excode_eq := fun _ hx => if_pos hx }
  · rw [RxLoop.receive_other h2 h3] at hfirst ⊢
    exact
      { hfirst with
        excf_eq := by simpa [show 2 ≤ r.n + 1 ↔ 2 ≤ r.n by omega] using hexcf
        exp_eq := by simpa [show r.n + 1 < 3 ↔ r.n < 3 by omega] using hexp
        excode_eq := fun hle => h.excode_eq (by simp at hle; omega) }

/-- The loop receives the whole response and ends there. -/
theorem Received.rxLoop_whole {fuel : Nat} (h : Received start resp r) (hr : ResolvesTo start resp)
    (hans : ∀ k, k < resp.length → ans k = ⟨resp.getD k 0, true⟩) (hfuel : resp.length ≤ r.n + fuel) :
    Received start resp (rxLoop ans fuel r) ∧ (rxLoop ans fuel r).n = resp.length := by
  induction fuel generalizing r with
  | zero => exact ⟨h, Nat.le_antisymm h.n_le hfuel⟩
  | succ fuel ih =>
    by_cases hlt : r.n < resp.length
    · have ha : ans r.used = ⟨resp.getD r.n 0, true⟩ := h.used_eq ▸ hans r.n hlt
      rw [rxLoop_of_ok ((h.continues_iff hr).2 hlt) (by rw [ha]), ha]
      exact ih (h.receive hr hlt) (by simp; omega)
    · rw [rxLoop_of_end (mt (h.continues_iff hr).1 hlt)]
      exact ⟨h, Nat.le_antisymm h.n_le (Nat.le_of_not_lt hlt)⟩

/-- With the whole response received the expected length is the count (R113). -/
theorem Received.exp_eq_n (h : Received start resp r) (hn : r.n = resp.length) (h3 : 3 ≤ r.n) : r.exp = r.n := by
  rw [h.exp_eq, if_neg (by omega), hn]

/-- With the whole response received the outcome is that of its CRC and its exception bit (R114, R115). -/
theorem Received.outcome_eq {body : List Byte} {lo hi : Byte} (h : Received start (body ++ [lo, hi]) r)
    (hn : r.n = (body ++ [lo, hi]).length) (h3 : 3 ≤ body.length) : r.outcome =
      if hi.toNat * 256 + lo.toNat ≠ (crc16 body).toNat then .crcMismatch
      else if (body.getD 1 0).getLsbD 7 then .slaveException (body.getD 2 0) else .ok := by
  have hlen : r.n = body.length + 2 := by simpa using hn
  have hbuf : r.buf = body ++ ([lo, hi] ++ r.buf.drop r.n) := by
    rw [← List.append_assoc, ← List.take_length (l := body ++ [lo, hi]), ← hn, ← h.take_eq, List.take_append_drop]
  have hbody : r.buf.take (r.n - 2) = body := by
    rw [hlen, Nat.add_sub_cancel, hbuf, List.take_left]
  have hlo : r.buf.getD (r.n - 2) 0 = lo := by
    rw [hlen, Nat.add_sub_cancel, hbuf, List.getD_append_right _ _ _ _ (Nat.le_refl _), Nat.sub_self]
    rfl
  have hhi : r.buf.getD (r.n - 1) 0 = hi := by
    rw [hlen, hbuf, List.getD_append_right _ _ _ _ (by omega), show body.length + 2 - 1 - body.length = 1 by omega]
    rfl
  have hcrc : hi ++ lo ≠ crc16 body ↔ hi.toNat * 256 + lo.toNat ≠ (crc16 body).toNat := by
    rw [Ne, ← BitVec.toNat_inj, toNat_append]
    rfl
  have hexcf : r.excf = (body.getD 1 0).getLsbD 7 := by
    rw [h.excf_eq, List.getD_append _ _ _ _ (by omega), decide_eq_true (by omega), Bool.true_and]
  have hexcode : r.excf = true → r.excode = body.getD 2 0 := fun hx => by
    rw [h.excode_eq (by omega) hx, List.getD_append _ _ _ _ (by omega)]
  rw [RxLoop.outcome, if_neg (not_not.2 (h.exp_eq_n hn (by omega)).symm), hbody, hlo, hhi, ← hexcf]
  simp only [hcrc]
  cases hx : r.excf with
  | true => rw [hexcode hx]
  | false => rfl

end Received

/-- Settles O59: the loop receives the response byte by byte, and its outcome reads the received bytes alone. -/
theorem responseOfResolvedLength : Obligations.ResponseOfResolvedLength := by
  intro buf psz ans body lo hi hl h2 _ h3 h254 hans hlen
  have hfc := withRequestCrc_getD_one buf h2
  have hr : ResolvesTo (if 4 < (buf.getD 1 0).toNat then 8 else 257) (body ++ [lo, hi]) :=
    { start_eq := by split <;> simp
      length_ge := by simp; omega
      length_le := by simp [Config.cap]; omega
      length_eq := by
        rw [List.getD_append _ _ _ _ (by omega), List.getD_append _ _ _ _ (by omega), List.length_append]
        refine Eq.trans ?_ hlen.symm
        split_ifs <;> omega }
  have hstart : Received _ (body ++ [lo, hi]) (rxStart (withRequestCrc buf psz)) :=
    received_rxStart ((withRequestCrc_length buf psz).trans hl) (by rw [hfc])
  obtain ⟨hrecv, hn⟩ := hstart.rxLoop_whole (fuel := 256) hr (by simpa using hans) (by simp; omega)
  have hcount := hn.trans (List.length_append (as := body) (bs := [lo, hi]))
  exact ⟨hcount, (hrecv.exp_eq_n hn (by simp at hcount; omega)).trans hcount, hrecv.used_eq.trans hcount,
    hrecv.outcome_eq hn h3⟩

end Sys2Proof.Machine

namespace Sys2Proof.Machine

/-! ### The codec inside its limits (R36) -/

section Codec

variable {s t : State} {off : Byte}

theorem exec_enc16_of_le (s : State) (value : Half) (h : off.toNat + 2 ≤ 256) :
    exec (.enc16 off value) s = .next (s.wrBytes off.toNat (bigEndian16 value)).retire :=
  checked_of_within (beyondBuf_eq_false.2 h) s _

theorem exec_enc32_of_le (s : State) (value : Word) (h : off.toNat + 4 ≤ 256) :
    exec (.enc32 off value) s = .next (s.wrBytes off.toNat (bigEndian32 value)).retire :=
  checked_of_within (beyondBuf_eq_false.2 h) s _

theorem exec_dec16_of_le (s : State) (h : off.toNat + 2 ≤ 256) :
    exec (.dec16 off) s = .next (s.setRes ((s.rd16 off.toNat).setWidth 32)).retire :=
  checked_of_within (beyondBuf_eq_false.2 h) s _

theorem exec_dec32_of_le (s : State) (h : off.toNat + 4 ≤ 256) :
    exec (.dec32 off) s = .next (s.setRes (s.rd32 off.toNat)).retire :=
  checked_of_within (beyondBuf_eq_false.2 h) s _

theorem res_of_exec_dec16 (h : off.toNat + 2 ≤ 256) (ht : exec (.dec16 off) s = .next t) :
    t.res = (s.rd16 off.toNat).setWidth 32 := by
  obtain rfl := Host.Outcome.next.inj ((exec_dec16_of_le s h).symm.trans ht)
  rfl

theorem res_of_exec_dec32 (h : off.toNat + 4 ≤ 256) (ht : exec (.dec32 off) s = .next t) :
    t.res = s.rd32 off.toNat := by
  obtain rfl := Host.Outcome.next.inj ((exec_dec32_of_le s h).symm.trans ht)
  rfl

end Codec

/-! ### A read of what was stored (R31) -/

@[simp] theorem State.rd16_retire (s : State) (i : Nat) : s.retire.rd16 i = s.rd16 i := rfl

@[simp] theorem State.rd32_retire (s : State) (i : Nat) : s.retire.rd32 i = s.rd32 i := rfl

@[simp] theorem State.rd16_wrBytes (s : State) (o : Nat) (v : Half) : (s.wrBytes o (bigEndian16 v)).rd16 o = v := by
  rw [State.rd16, State.rd_wrBytes16_hi, State.rd_wrBytes16_lo, hiByte_append_loByte]

@[simp] theorem State.rd32_wrBytes (s : State) (o : Nat) (w : Word) : (s.wrBytes o (bigEndian32 w)).rd32 o = w := by
  obtain ⟨h0, h1, h2, h3⟩ := s.rd_wrBytes32 o w
  rw [State.rd32, State.rd16, State.rd16, h0, h1, h2, h3, hiByte_append_loByte, hiByte_append_loByte,
    hiHalf_append_loHalf]

theorem State.rd16_congr {s s' : State} {i : Nat} (h0 : s.rd i = s'.rd i) (h1 : s.rd (i + 1) = s'.rd (i + 1)) :
    s.rd16 i = s'.rd16 i := by
  rw [State.rd16, State.rd16, h0, h1]

theorem State.rd32_congr {s s' : State} {i : Nat} (h : ∀ k, k < 4 → s.rd (i + k) = s'.rd (i + k)) :
    s.rd32 i = s'.rd32 i := by
  rw [State.rd32, State.rd32, State.rd16_congr (i := i) (h 0 (by omega)) (h 1 (by omega)),
    State.rd16_congr (i := i + 2) (h 2 (by omega)) (h 3 (by omega))]

/-- Settles O24: `DEC16` and `DEC32` read as one value the bytes that `LDB` reads one by one, and the encoders store those. -/
theorem codecRoundTrips : Obligations.CodecRoundTrips := by
  refine ⟨fun s t off v hoff ht => ?_, fun s t off w hoff ht => ?_, fun s s' t t' off hoff h0 h1 ht ht' => ?_,
    fun s s' t t' off hoff hrd ht ht' => ?_⟩
  · obtain rfl := Host.Outcome.next.inj ((exec_enc16_of_le s v (by omega)).symm.trans ht)
    refine ⟨⟨_, exec_dec16_of_le _ (by omega), ?_⟩, ?_, ?_⟩
    · simpa using BitVec.toNat_setWidth_of_le (b := v) (by decide : 16 ≤ 32)
    · obtain ⟨u, hu, hres⟩ := exec_ldb_res (s.wrBytes off.toNat (bigEndian16 v)).retire off
      exact ⟨u, hu, by rw [hres, State.rd_retire, State.rd_wrBytes16_hi, hiByte_toNat]⟩
    · have hadd : (off + 1).toNat = off.toNat + 1 := toNat_offset_add (k := 1) (by omega)
      obtain ⟨u, hu, hres⟩ := exec_ldb_res (s.wrBytes off.toNat (bigEndian16 v)).retire (off + 1)
      exact ⟨u, hu, by rw [hres, hadd, State.rd_retire, State.rd_wrBytes16_lo, loByte_toNat]⟩
  · obtain rfl := Host.Outcome.next.inj ((exec_enc32_of_le s w (by omega)).symm.trans ht)
    exact ⟨_, exec_dec32_of_le _ (by omega), by simp⟩
  · rw [res_of_exec_dec16 (by omega) ht, res_of_exec_dec16 (by omega) ht', State.rd16_congr h0 h1]
  · rw [res_of_exec_dec32 (by omega) ht, res_of_exec_dec32 (by omega) ht', State.rd32_congr hrd]

/-! ### What the reading commands leave alone -/

/-- A checked command that writes `RES` and `CRCREG` only keeps `BUF`, what only `XACT` writes, and the ports, also when it
raises (R131). -/
theorem checked_read_frame {bad : Bool} {s t : State} {v : Word} {c : BitVec 16}
    (h : checked bad s { s with res := v, crcreg := c } = .next t) :
    SameBuf s t ∧ SameTransaction s t ∧ SamePorts s t := by
  rcases checked_next.1 h with ⟨-, rfl⟩ | ⟨-, rfl⟩ <;>
    exact ⟨fun _ => rfl, by and_intros <;> rfl, by and_intros <;> rfl⟩

/-- A checked command that writes `RES` only keeps `CRCREG` too (R71, R74, R75). -/
theorem checked_setRes_frame {bad : Bool} {s t : State} {v : Word} (h : checked bad s (s.setRes v) = .next t) :
    SameBuf s t ∧ SameTransaction s t ∧ SamePorts s t ∧ t.crcreg = s.crcreg := by
  obtain ⟨hbuf, htrans, hports⟩ := checked_read_frame (c := s.crcreg) h
  rcases checked_next.1 h with ⟨-, rfl⟩ | ⟨-, rfl⟩ <;> exact ⟨hbuf, htrans, hports, rfl⟩

/-- Settles O36: `LDB`, `DEC16` and `DEC32` write `RES`; `CRC.GEN` and `CRC.CHK` write `RES` and `CRCREG`. -/
theorem readingCommandsFrame : Obligations.ReadingCommandsFrame := by
  refine ⟨fun s t off h => ?_, fun s t len h => ?_⟩
  · rcases h with h | h | h
    · exact checked_setRes_frame (bad := false) h
    · exact checked_setRes_frame h
    · exact checked_setRes_frame h
  · rcases h with h | h
    · exact checked_read_frame h
    · exact checked_read_frame h

/-! ### The codec commands one by one -/

/-- Settles O18: `STB` has no limit to exceed, and writes the one byte. -/
theorem stbStoresByte : Obligations.StbStoresByte := fun s off byte =>
  ⟨_, exec_stb off byte s, s.rd_wr_same off.toNat byte, fun _ ha => s.rd_wr_other (by omega) byte, rfl, rfl⟩

/-- Settles O19: `LDB` has no limit to exceed, and a widened byte keeps its value. -/
theorem ldbLoadsByte : Obligations.LdbLoadsByte := fun s off =>
  ⟨_, exec_ldb off s, BitVec.toNat_setWidth_of_le (by decide), rfl, rfl⟩

/-- Settles O20: the two bytes stored are the value's halves, high byte first (R31). -/
theorem enc16StoresBigEndian : Obligations.Enc16StoresBigEndian := by
  intro s off value hoff
  refine ⟨_, exec_enc16_of_le s value (by omega), ?_, ?_, rfl, rfl⟩
  · rw [State.rd_retire, State.rd_wrBytes16_hi, hiByte_toNat]
  · rw [State.rd_retire, State.rd_wrBytes16_lo, loByte_toNat]

theorem ofNat_div_eq_hiHalf (v : Word) : BitVec.ofNat 16 (v.toNat / 65536) = hiHalf v :=
  BitVec.eq_of_toNat_eq (by rw [BitVec.toNat_ofNat, hiHalf_toNat]; omega)

theorem ofNat_mod_eq_loHalf (v : Word) : BitVec.ofNat 16 (v.toNat % 65536) = loHalf v :=
  BitVec.eq_of_toNat_eq (by rw [BitVec.toNat_ofNat, loHalf_toNat]; omega)

/-- Storing a 32-bit value stores its more significant half, then the other two bytes further (R31). -/
theorem wrBytes_bigEndian32 (s : State) (o : Nat) (v : Word) :
    s.wrBytes o (bigEndian32 v) =
      (s.wrBytes o (bigEndian16 (hiHalf v))).wrBytes (o + 2) (bigEndian16 (loHalf v)) := rfl

/-- `ENC32` leaves what `ENC16` of the halves, one after the other, leave (R73). -/
theorem exec_enc32_as_enc16 (s : State) {off : Byte} (v : Word) (h : off.toNat + 4 ≤ 256) :
    ∃ u, exec (.enc16 off (hiHalf v)) s = .next u ∧ exec (.enc16 (off + 2) (loHalf v)) u = exec (.enc32 off v) s := by
  have hadd : (off + 2).toNat = off.toNat + 2 := toNat_offset_add (k := 2) (by omega)
  refine ⟨_, exec_enc16_of_le s (hiHalf v) (by omega), ?_⟩
  rw [exec_enc16_of_le _ (loHalf v) (by omega), exec_enc32_of_le s v h, hadd, wrBytes_bigEndian32]
  rfl

/-- Settles O21: the four bytes are those `rd_of_exec_enc32` names, and the state is that of two `ENC16`. -/
theorem enc32StoresBigEndian : Obligations.Enc32StoresBigEndian := by
  intro s off value hoff
  have hexec := exec_enc32_of_le s value (off := off) (by omega)
  have hbyte := fun k (hk : k < 4) => rd_of_exec_enc32 (by omega) hexec hk
  have hlt := value.isLt
  obtain ⟨u, hu, htwo⟩ := exec_enc32_as_enc16 s value (off := off) (by omega)
  refine ⟨_, hexec, (hbyte 0 (by omega)).trans (by omega), hbyte 1 (by omega), hbyte 2 (by omega),
    (hbyte 3 (by omega)).trans (by omega), rfl, rfl, u, ?_, ?_⟩
  · rwa [ofNat_div_eq_hiHalf]
  · rw [ofNat_mod_eq_loHalf, htwo, hexec]

/-- Settles O22: `DEC16` reads two bytes as one number, widened. -/
theorem dec16ReadsBigEndian : Obligations.Dec16ReadsBigEndian := fun s off hoff =>
  ⟨_, exec_dec16_of_le s (by omega),
    (BitVec.toNat_setWidth_of_le (by decide)).trans (s.rd16_toNat off.toNat), rfl, rfl⟩

/-- Settles O23: `DEC32` reads four bytes as one number. -/
theorem dec32ReadsBigEndian : Obligations.Dec32ReadsBigEndian := fun s off hoff =>
  ⟨_, exec_dec32_of_le s (by omega), s.rd32_toNat_bytes off.toNat, rfl, rfl⟩

end Sys2Proof.Machine

namespace Sys2Proof.Machine

/-! ### R80's procedure on numbers -/

/-- One shift of the register halves its number, and exclusive-ors 0xA001 if the number was odd. -/
theorem crcShift_toNat (c : BitVec 16) : (crcShift c).toNat = crcShiftNat c.toNat := by
  have hodd : c.getLsbD 0 = true ↔ c.toNat % 2 = 1 := by simp [BitVec.getLsbD]
  unfold crcShift crcShiftNat
  simp only [hodd]
  split <;> simp [Nat.shiftRight_eq_div_pow]

theorem crcShifts_toNat (k : Nat) (c : BitVec 16) : (crcShifts k c).toNat = crcShiftNat^[k] c.toNat := by
  induction k generalizing c with
  | zero => rfl
  | succ k ih => rw [crcShifts, ih, crcShift_toNat, Function.iterate_succ_apply]

theorem crcByte_toNat (c : BitVec 16) (b : Byte) : (crcByte c b).toNat = crcShiftNat^[8] (c.toNat ^^^ b.toNat) := by
  rw [crcByte, crcShifts_toNat, BitVec.toNat_xor, BitVec.toNat_setWidth_of_le (by decide)]

/-- Settles O27: one more byte is one more `crcByte`, whose shifts are those of the numbers. -/
theorem crcFollowsProcedure : Obligations.CrcFollowsProcedure :=
  ⟨rfl, fun bytes b => by rw [crc16_concat, crcByte_toNat]⟩

/-- Settles O26: R81 prints these values. -/
theorem crcFixedPoints : Obligations.CrcFixedPoints := by
  unfold Obligations.CrcFixedPoints
  decide +kernel

/-! ### A register met by its own bytes -/

/-- As long as 0s move out, shifts are a shift. -/
theorem crcShifts_of_low_zero {k : Nat} {c : BitVec 16} (h : ∀ i < k, c.getLsbD i = false) : crcShifts k c = c >>> k := by
  induction k generalizing c with
  | zero => simp [crcShifts]
  | succ k ih =>
    rw [crcShifts, crcShift_even (h 0 (by omega)), ih fun i hi => ?_, ← BitVec.shiftRight_add, Nat.add_comm]
    simpa [Nat.add_comm] using h (i + 1) (by omega)

/-- A register's own low byte cancels its low half, so that eight 0s move out. -/
theorem crcByte_loByte (c : BitVec 16) : crcByte c (loByte c) = (hiByte c).setWidth 16 := by
  rw [crcByte, crcShifts_of_low_zero fun i hi => ?_]
  · refine BitVec.eq_of_getLsbD_eq fun i hi => ?_
    have htop : 8 ≤ i → c.getLsbD (8 + i) = false := fun h => c.getLsbD_of_ge _ (by omega)
    by_cases h8 : i < 8
    · simp [loByte, hiByte, h8, hi]
    · simp [loByte, hiByte, h8, htop (by omega)]
  · simp [loByte, hi, Nat.lt_trans hi (by decide : 8 < 16)]

/-- A register of no more than a byte is cancelled by that byte, and shifts keep 0. -/
theorem crcByte_setWidth_self (b : Byte) : crcByte (b.setWidth 16) b = 0 := by
  rw [crcByte, BitVec.xor_self]
  decide

theorem foldl_crcByte_littleEndian16 (c : BitVec 16) : (littleEndian16 c).foldl crcByte c = 0 := by
  rw [littleEndian16, List.foldl_cons, crcByte_loByte, List.foldl_cons, crcByte_setWidth_self, List.foldl_nil]

/-- A value appended to the bytes, low byte first, makes their CRC 0 exactly if it is the CRC of the bytes: each register
has one value that takes it to 0, since no byte loses information. -/
theorem crc16_append_eq_zero_iff (bytes : List Byte) (v : BitVec 16) :
    crc16 (bytes ++ littleEndian16 v) = 0 ↔ crc16 bytes = v := by
  rw [crc16, List.foldl_append, ← crc16]
  refine ⟨fun h => foldl_crcByte_injective (h.trans (foldl_crcByte_littleEndian16 v).symm), fun h => ?_⟩
  rw [h, foldl_crcByte_littleEndian16]

/-- Settles O33: the value appended is the CRC. -/
theorem crcResidueIsZero : Obligations.CrcResidueIsZero := fun bytes => (crc16_append_eq_zero_iff bytes _).2 rfl

/-- One byte changed changes the CRC. -/
theorem crc16_set_ne {bytes : List Byte} {i : Nat} {b : Byte} (hi : i < bytes.length) (hb : b ≠ bytes[i]) :
    crc16 (bytes.set i b) ≠ crc16 bytes := by
  intro h
  rw [List.set_eq_take_append_cons_drop, if_pos hi] at h
  conv at h => rhs; rw [← List.take_append_drop i bytes, List.drop_eq_getElem_cons hi]
  simp only [crc16, List.foldl_append, List.foldl_cons] at h
  exact hb (crcByte_injective_byte (foldl_crcByte_injective h))

/-! ### A frame in `BUF` -/

@[simp] theorem loByte_append (hi lo : Byte) : loByte (hi ++ lo) = lo :=
  BitVec.eq_of_toNat_eq (by rw [loByte_toNat, toNat_append]; omega)

@[simp] theorem hiByte_append (hi lo : Byte) : hiByte (hi ++ lo) = hi :=
  BitVec.eq_of_toNat_eq (by rw [hiByte_toNat, toNat_append]; omega)

/-- A frame is its body and its CRC field, low byte first (R84, R86). -/
theorem State.rdFirst_frame (s : State) (n : Nat) :
    s.rdFirst (n + 2) = s.rdFirst n ++ littleEndian16 (s.frameCrc (n + 2)) := by
  simp [State.rdFirst_succ, State.frameCrc, littleEndian16]

/-- The CRC field is right exactly if the CRC of the whole frame is 0. -/
theorem State.crc16_eq_frameCrc_iff (s : State) (n : Nat) :
    crc16 (s.rdFirst n) = s.frameCrc (n + 2) ↔ crc16 (s.rdFirst (n + 2)) = 0 := by
  rw [State.rdFirst_frame, crc16_append_eq_zero_iff]

@[simp] theorem State.rdFirst_appendCrc_body (s : State) (n : Nat) : (s.appendCrc n).rdFirst n = s.rdFirst n :=
  State.rdFirst_congr fun _ hi => s.rd_appendCrc_outside (.inl hi)

@[simp] theorem State.frameCrc_appendCrc (s : State) (n : Nat) :
    (s.appendCrc n).frameCrc (n + 2) = crc16 (s.rdFirst n) := by
  simp [State.frameCrc]

theorem State.crc16_rdFirst_appendCrc (s : State) (n : Nat) : crc16 ((s.appendCrc n).rdFirst (n + 2)) = 0 :=
  ((s.appendCrc n).crc16_eq_frameCrc_iff n).1 (by simp)

/-! ### The CRC commands inside their limits (R36) -/

section Commands

variable {len : Half}

theorem exec_crcGen_of_le (s : State) (h : len.toNat ≤ 256) :
    exec (.crcGen len) s = .next ((s.crcOver len.toNat).setRes ((crc16 (s.rdFirst len.toNat)).setWidth 32)).retire :=
  checked_of_within (beyondBuf_eq_false.2 h) s _

theorem exec_crcApp_of_le (s : State) (h : len.toNat + 2 ≤ 256) :
    exec (.crcApp len) s = .next ((s.appendCrc len.toNat).setRes ((crc16 (s.rdFirst len.toNat)).setWidth 32)).retire :=
  checked_of_within (beyondBuf_eq_false.2 h) s _

theorem exec_crcChk_of_le (s : State) (h2 : 2 ≤ len.toNat) (h256 : len.toNat ≤ 256) :
    exec (.crcChk len) s = .next ((s.crcOver (len.toNat - 2)).setRes
      (if crc16 (s.rdFirst (len.toNat - 2)) = s.frameCrc len.toNat then 1 else 0)).retire :=
  checked_of_within (Bool.or_eq_false_iff.2 ⟨decide_eq_false (Nat.not_lt.2 h2), beyondBuf_eq_false.2 h256⟩) s _

/-- `CRC.CHK` of a frame answers 1 exactly if the CRC of the whole frame, its CRC field included, is 0. -/
theorem exec_crcChk_frame (s : State) (h : len.toNat + 2 ≤ 256) :
    ∃ u, exec (.crcChk (len + 2)) s = .next u ∧ u.res = if crc16 (s.rdFirst (len.toNat + 2)) = 0 then 1 else 0 := by
  have hadd : (len + 2).toNat = len.toNat + 2 := by bv_omega
  refine ⟨_, exec_crcChk_of_le s (by omega) (by omega), ?_⟩
  simp only [hadd, Nat.add_sub_cancel, ← s.crc16_eq_frameCrc_iff]
  rfl

end Commands

/-- Settles O28: widened to `RES`, the CRC keeps its value. -/
theorem crcGenGivesCrc : Obligations.CrcGenGivesCrc := fun s _ h =>
  ⟨_, exec_crcGen_of_le s h, BitVec.toNat_setWidth_of_le (by decide), rfl, rfl⟩

/-- Settles O29: the two bytes appended are the CRC's low and high bytes. -/
theorem crcAppAppendsCrc : Obligations.CrcAppAppendsCrc := by
  intro s len h
  have hres : ((crc16 (s.rdFirst len.toNat)).setWidth 32).toNat = (crc16 (s.rdFirst len.toNat)).toNat :=
    BitVec.toNat_setWidth_of_le (by decide)
  refine ⟨_, exec_crcApp_of_le s (by omega), hres, ?_, ?_, rfl, rfl⟩
  · rw [State.rd_retire, State.rd_setRes, State.rd_appendCrc_lo, loByte_toNat, ← hres]
    rfl
  · rw [State.rd_retire, State.rd_setRes, State.rd_appendCrc_hi, hiByte_toNat, ← hres]
    rfl

/-- Settles O30: equal values are equal numbers. -/
theorem crcChkComparesCrc : Obligations.CrcChkComparesCrc := by
  intro s len h2 h256
  refine ⟨_, exec_crcChk_of_le s h2 h256, ?_, rfl, rfl⟩
  rw [← s.frameCrc_toNat]
  simp only [BitVec.toNat_inj]
  rfl

/-- Settles O31: a frame with its own CRC has the CRC 0. -/
theorem appendedCrcVerifies : Obligations.AppendedCrcVerifies := by
  intro s n h
  have hexec := exec_crcApp_of_le s h
  obtain ⟨u, hu, hres⟩ := exec_crcChk_frame _ h
  exact ⟨_, u, hexec, hu, hres.trans (if_pos (s.crc16_rdFirst_appendCrc n.toNat))⟩

theorem xor_one_shiftLeft_ne (b : Byte) {bit : Nat} (h : bit < 8) : b ^^^ 1#8 <<< bit ≠ b := by
  intro he
  have hbit := congrArg (·.getLsbD bit) he
  simp [h] at hbit

/-- Settles O32: the CRC of the frame was 0, and the changed byte, payload or checksum, changes it. -/
theorem singleBitErrorIsDetected : Obligations.SingleBitErrorIsDetected := by
  intro s t n at_ bit hn ht hat hbit
  obtain rfl := Host.Outcome.next.inj ((exec_crcApp_of_le s hn).symm.trans ht)
  obtain ⟨u, hu, hres⟩ := exec_crcChk_frame _ hn
  refine ⟨u, hu, hres.trans (if_neg ?_)⟩
  rw [State.rdFirst_wr, ← s.crc16_rdFirst_appendCrc n.toNat]
  refine crc16_set_ne (by simpa using hat) ?_
  rw [State.rdFirst_getElem _ hat]
  exact xor_one_shiftLeft_ne _ hbit

end Sys2Proof.Machine

namespace Sys2Proof.Machine

/-! ### What the builders leave alone -/

/-- A checked command that stores and writes `RES` leaves `CRCREG` too (R91 to R93). -/
theorem checked_wrBytes_setRes_frame {bad : Bool} {s t : State} {base : Nat} {bs : List Byte} {v : Word}
    (h : checked bad s ((s.wrBytes base bs).setRes v) = .next t) :
    SameBufOutside base bs.length s t ∧ t.crcreg = s.crcreg ∧ SameTransaction s t ∧ SamePorts s t := by
  obtain ⟨hbuf, htrans, hports⟩ := checked_store_frame (c := s.crcreg) h
  rcases checked_next.1 h with ⟨-, rfl⟩ | ⟨-, rfl⟩ <;> exact ⟨hbuf, rfl, htrans, hports⟩

/-- Settles O38: each builder stores at 0 and writes `RES`; the read header is six bytes, the write header seven. -/
theorem buildersFrame : Obligations.BuildersFrame := by
  refine fun s t addr start count => ⟨fun h => ?_, fun h => ?_⟩
  · rcases h with h | h
    · rw [exec_bldRh] at h
      exact checked_wrBytes_setRes_frame h
    · rw [exec_bldRi] at h
      exact checked_wrBytes_setRes_frame h
  · rw [exec_bldWm] at h
    exact checked_wrBytes_setRes_frame h

/-! ### The headers -/

/-- What `BLD.RH` and `BLD.RI` do, each with its own function code (R91, R92). -/
theorem checked_readHeader (s : State) (addr fc : Byte) (start count : Half) :
    ∃ t, checked false s ((s.wrBytes 0 (requestHeader addr fc start count)).setRes 6) = .next t ∧ t.rd 1 = fc ∧
      t.rd 0 = addr ∧ (t.rd 2).toNat = start.toNat / 256 ∧ (t.rd 3).toNat = start.toNat % 256 ∧
      (t.rd 4).toNat = count.toNat / 256 ∧ (t.rd 5).toNat = count.toNat % 256 ∧ t.res = 6 ∧ t.cause = 0 ∧
      t.sticky = s.sticky := by
  obtain ⟨haddr, hfc, hstartHi, hstartLo, hcountHi, hcountLo⟩ := s.rd_requestHeader addr fc start count []
  rw [List.append_nil] at haddr hfc hstartHi hstartLo hcountHi hcountLo
  refine ⟨_, checked_false s _, hfc, haddr, ?_, ?_, ?_, ?_, rfl, rfl, rfl⟩ <;> rw [State.rd_retire, State.rd_setRes]
  · rw [hstartHi, hiByte_toNat]
  · rw [hstartLo, loByte_toNat]
  · rw [hcountHi, hiByte_toNat]
  · rw [hcountLo, loByte_toNat]

/-- Settles O34: the two commands differ in the function code alone. -/
theorem readBuildersWriteHeader : Obligations.ReadBuildersWriteHeader := fun s addr start count =>
  ⟨exec_bldRh addr start count s ▸ checked_readHeader s addr 0x03#8 start count,
   exec_bldRi addr start count s ▸ checked_readHeader s addr 0x04#8 start count⟩

/-- The byte behind the six header bytes, where `BLD.WM` puts its byte count (R93). -/
theorem State.rd_behind_requestHeader (s : State) (addr fc : Byte) (start count : Half) (b : Byte) :
    (s.wrBytes 0 (requestHeader addr fc start count ++ [b])).rd 6 = b :=
  s.rd_wrBytes_inside 0 (bs := requestHeader addr fc start count ++ [b]) (k := 6) (by simp)

/-- With at most 123 registers the frame and its CRC end inside `BUF` (R93). -/
theorem exec_bldWm_of_lt (s : State) (addr : Byte) (start : Half) {count : Half} (h : count.toNat < 124) :
    exec (.bldWm addr start count) s =
      .next ((s.wrBytes 0 (requestHeader addr 0x10#8 start count ++ [.ofNat 8 (2 * count.toNat)])).setRes
        (.ofNat 32 (7 + 2 * count.toNat))).retire :=
  checked_of_within (beyondBuf_eq_false.2 (by omega)) s _

/-- Settles O35: a count below 124 fits in its low byte, and its double in the byte count. -/
theorem writeBuilderWritesHeader : Obligations.WriteBuilderWritesHeader := by
  intro s addr start count h
  obtain ⟨haddr, hfc, hstartHi, hstartLo, hcountHi, hcountLo⟩ :=
    s.rd_requestHeader addr 0x10#8 start count [.ofNat 8 (2 * count.toNat)]
  have hbytes := s.rd_behind_requestHeader addr 0x10#8 start count (.ofNat 8 (2 * count.toNat))
  have hhi : hiByte count = 0 := BitVec.eq_of_toNat_eq ((hiByte_toNat count).trans (Nat.div_eq_of_lt (by omega)))
  have hres : (BitVec.ofNat 32 (7 + 2 * count.toNat)).toNat = 7 + 2 * count.toNat :=
    (BitVec.toNat_ofNat _ _).trans (Nat.mod_eq_of_lt (by omega))
  refine ⟨_, exec_bldWm_of_lt s addr start h, haddr, hfc, ?_, ?_, hcountHi.trans hhi, ?_, ?_, hres, rfl, rfl⟩ <;>
    rw [State.rd_retire, State.rd_setRes]
  · rw [hstartHi, hiByte_toNat]
  · rw [hstartLo, loByte_toNat]
  · rw [hcountLo, loByte_toNat, Nat.mod_eq_of_lt (by omega)]
  · rw [hbytes, BitVec.toNat_ofNat, Nat.mod_eq_of_lt (by omega)]

end Sys2Proof.Machine

namespace Sys2Proof.Machine

/-! ### The acceptance of `XACT` -/

/-- Settles O39: outside the limits only `ERR` changes, inside them the CRC is the one write to `BUF`. -/
theorem xactAcceptanceFrame : Obligations.XactAcceptanceFrame := by
  intro s t psize h
  rw [exec_xact] at h
  rcases execXact_next h with ⟨-, rfl⟩ | ⟨-, -, rfl⟩
  · exact ⟨fun _ _ => rfl, by and_intros <;> rfl⟩
  · exact ⟨fun _ ha => (s.acceptXact psize).rd_appendCrc_outside ha, by and_intros <;> rfl⟩

/-- Settles O44: acceptance leaves the state `State.begun`, its CRC behind the request. -/
theorem xactIsAccepted : Obligations.XactIsAccepted := by
  intro s psize h2 h254
  refine ⟨s.begun psize, execXact_of_range h2 h254 s, rfl, State.begun_psz h254, rfl, rfl, rfl, rfl, rfl, rfl, ?_, ?_, rfl⟩
  · rw [State.begun, State.rd_emit, State.rd_appendCrc_lo, loByte_toNat]
    rfl
  · rw [State.begun, State.rd_emit, State.rd_appendCrc_hi, hiByte_toNat]
    rfl

/-! ### The transport's lines -/

theorem State.txReadyNow_iff {s : State} : s.txReadyNow = true ↔ s.txReady.head? ≠ some false := by
  simp [State.txReadyNow]

theorem State.txReadyNow_eq_false {s : State} : s.txReadyNow = false ↔ s.txReady.head? = some false := by
  simp [State.txReadyNow]

theorem State.rxReadyNow_iff {s : State} : s.rxReadyNow = true ↔ s.rxReady.head? ≠ some false := by
  simp [State.rxReadyNow]

theorem State.rxReadyNow_eq_false {s : State} : s.rxReadyNow = false ↔ s.rxReady.head? = some false := by
  simp [State.rxReadyNow]

/-! ### Phase `TX`, step by step -/

/-- The counters hold more than `CAP`, so that a count below it does not wrap (R12). -/
theorem toNat_count_succ {c : Count} (h : c.toNat < 256) : (c + 1#9).toNat = c.toNat + 1 :=
  BitVec.toNat_add_of_lt (by simp; omega)

/-- Settles O45: the transport takes the byte offered, or does not. -/
theorem txHandsOverNextByte : Obligations.TxHandsOverNextByte := by
  intro s hp hr hlt hcap
  rw [step_of_tx hr hp]
  have hlt256 : s.txcnt.toNat < 256 := Nat.lt_of_lt_of_le hlt hcap
  cases hready : s.txReadyNow with
  | true =>
    refine ⟨_, stepTx_of_ready (s := s.pastReset.countBusy) hlt hlt256 hready, ?_⟩
    simp [hp, SameBuf, toNat_count_succ hlt256, -BitVec.toNat_add, beq_eq_decide, State.txReadyNow_iff.1 hready]
  | false =>
    refine ⟨_, stepTx_of_not_ready (s := s.pastReset.countBusy) hlt hlt256 hready, ?_⟩
    simp [hp, SameBuf, State.txReadyNow_eq_false.1 hready]

/-- Settles O46: with the whole frame handed over the step is step 3. -/
theorem receptionStarts : Obligations.ReceptionStarts := by
  intro s hp hr hdone
  rw [step_of_tx hr hp]
  have hexp := initialExpLen_toNat_eq s.reqfc
  exact ⟨_, stepTx_of_done (s := s.pastReset.countBusy) hdone, fun h => hexp.trans (if_pos h),
    fun h => hexp.trans (if_neg (Nat.not_lt.2 h)), rfl, rfl, rfl, rfl, fun _ => rfl⟩

/-! ### Phase `RX`, step by step -/

@[simp] theorem State.answerAt_pastReset (s : State) (k : Nat) : s.pastReset.answerAt k = s.answerAt k := rfl

@[simp] theorem State.answerAt_countBusy (s : State) (k : Nat) : s.countBusy.answerAt k = s.answerAt k := rfl

@[simp] theorem State.answerAt_storeRx (s : State) (b : Byte) (k : Nat) : (s.storeRx b).answerAt k = s.answerAt k := by
  simp [State.answerAt]

@[simp] theorem State.answerAt_afterRx (s : State) (k : Nat) : s.afterRx.answerAt k = s.answerAt k := by
  simp [State.answerAt]

/-- The state in which the answered byte is stored and counted, before the rules that follow its place (R109). -/
def State.stored (s : State) : State := s.pastReset.countBusy.pastWait.takeAnswer.storeRx (s.answerAt 0).byte

@[simp] theorem State.stored_fields (s : State) :
    s.stored.phase = s.phase ∧ s.stored.excf = s.excf ∧ s.stored.rxcnt = s.rxcnt + 1 ∧ s.stored.explen = s.explen ∧
    s.stored.excode = s.excode ∧ s.stored.awaiting = false ∧ s.stored.rxAns = s.rxAns.tail ∧ s.stored.bus = s.bus := by
  simp [State.stored]

theorem State.answerAt_stored (s : State) (k : Nat) : s.stored.answerAt k = s.answerAt (k + 1) := by
  simp [State.stored, State.answerAt_takeAnswer]

@[simp] theorem State.rd_stored_same (s : State) : s.stored.rd s.rxcnt.toNat = (s.answerAt 0).byte :=
  s.pastReset.countBusy.pastWait.takeAnswer.rd_storeRx_same _

theorem State.rd_stored_other (s : State) {i : Nat} (h : i ≠ s.rxcnt.toNat) : s.stored.rd i = s.rd i := by
  rw [State.stored, State.rd_storeRx_other _ _ (by simpa using h)]
  simp

theorem State.afterRx_of_second {s : State} (h : s.rxcnt = 2) : s.afterRx = s.secondByte := if_pos h

theorem State.afterRx_of_third {s : State} (h : s.rxcnt = 3) : s.afterRx = s.thirdByte := by
  rw [State.afterRx, if_neg (by rw [h]; decide), if_pos h]

theorem State.afterRx_of_later {s : State} (h : 4 ≤ s.rxcnt.toNat) : s.afterRx = s := by
  rw [State.afterRx, if_neg fun e => ?_, if_neg fun e => ?_] <;> simp [e] at h

section Step

variable {s : State} (hp : s.phase = .rx) (hr : s.resetNow = false)

include hp hr

theorem step_of_request (ha : s.awaiting = false) (he : s.rxcnt.toNat < s.explen.toNat) (hc : s.rxcnt.toNat < 256) :
    step s = .next s.pastReset.countBusy.request :=
  (step_of_rx hr hp).trans (stepRx_of_request (s := s.pastReset.countBusy) ha he hc)

theorem step_of_loop_end (ha : s.awaiting = false) (h : s.explen.toNat ≤ s.rxcnt.toNat ∨ 256 ≤ s.rxcnt.toNat) :
    step s = .next s.pastReset.countBusy.enterCheck :=
  (step_of_rx hr hp).trans (stepRx_of_end (s := s.pastReset.countBusy) ha h)

theorem step_of_wait (ha : s.awaiting = true) (hc : s.rxcnt.toNat < 256) (hready : s.rxReadyNow = false) :
    step s = .next s.pastReset.countBusy.pastWait :=
  (step_of_rx hr hp).trans (stepRx_of_wait (s := s.pastReset.countBusy) ha hc hready)

theorem step_of_received (ha : s.awaiting = true) (hc : s.rxcnt.toNat < 256) (hready : s.rxReadyNow = true)
    (hok : (s.answerAt 0).ok = true) : step s = .next s.stored.afterRx :=
  (step_of_rx hr hp).trans (stepRx_of_ok (s := s.pastReset.countBusy) ha hc hready hok)

theorem step_of_failed_read (ha : s.awaiting = true) (hc : s.rxcnt.toNat < 256) (hready : s.rxReadyNow = true)
    (hok : (s.answerAt 0).ok = false) : step s = .next s.pastReset.countBusy.pastWait.takeAnswer.enterCheck :=
  (step_of_rx hr hp).trans (stepRx_of_fail (s := s.pastReset.countBusy) ha hc hready hok)

end Step

/-- Settles O47: a request issued, a step of waiting, a byte stored. -/
theorem receivedByteIsStored : Obligations.ReceivedByteIsStored := by
  refine ⟨fun s hp hr ha he hc => ?_, fun s hp hr ha hc hwait => ?_, fun s hp hr ha hc hready hok => ?_⟩
  · refine ⟨_, step_of_request hp hr ha he hc, ?_⟩
    simp [hp, SameBuf]
  · refine ⟨_, step_of_wait hp hr ha hc (State.rxReadyNow_eq_false.2 hwait), ?_⟩
    simp [hp, ha, SameBuf]
  · have hother : SameBufOutside s.rxcnt.toNat 1 s s.stored.afterRx := fun i hi => by
      rw [State.rd_afterRx, s.rd_stored_other (by omega)]
    refine ⟨_, step_of_received hp hr ha hc (State.rxReadyNow_iff.2 hready) hok, ?_⟩
    simp [hp, hother, toNat_count_succ hc, -BitVec.toNat_add, State.answerAt_stored]

/-- Settles O48: the byte stored at index 1 is the second. -/
theorem secondByteFlagsException : Obligations.SecondByteFlagsException := by
  intro s hp hr ha hready hn hok
  have hcnt : s.stored.rxcnt = 2 := by simp [hn]
  have hbyte : s.stored.rd 1 = (s.answerAt 0).byte := by simpa [hn] using s.rd_stored_same
  refine ⟨_, step_of_received hp hr ha (by simp [hn]) (State.rxReadyNow_iff.2 hready) hok, ?_⟩
  simp [State.afterRx_of_second hcnt, exceptionFlag, hbyte, hn]

/-- From the fourth byte on the loop stores and counts only (R111). -/
theorem stepRx_later {s t : State} (h3 : 3 ≤ s.rxcnt.toNat) (ht : stepRx s = .next t) :
    t.explen = s.explen ∧ t.excf = s.excf ∧ t.excode = s.excode := by
  rcases stepRx_next ht with ⟨-, ht⟩ | ⟨-, -, -, rfl⟩ | ⟨-, -, rfl⟩
  · obtain ⟨hc, ⟨-, rfl⟩ | ⟨-, -, rfl⟩ | ⟨-, -, rfl⟩⟩ := awaitRx_next ht
    · simp
    · rw [State.afterRx_of_later (by simpa [toNat_count_succ hc, -BitVec.toNat_add] using h3)]
      simp
    · simp
  · simp
  · simp

/-- Settles O49: the byte stored at index 2 is the third, and a later byte meets no rule. -/
theorem thirdByteResolvesLength : Obligations.ThirdByteResolvesLength := by
  refine ⟨fun s hp hr ha hready hn hok => ?_, fun s t hp hr h3 ht => ?_⟩
  · have hcnt : s.stored.rxcnt = 3 := by simp [hn]
    have hbyte : s.stored.rd 2 = (s.answerAt 0).byte := by simpa [hn] using s.rd_stored_same
    refine ⟨_, step_of_received hp hr ha (by simp [hn]) (State.rxReadyNow_iff.2 hready) hok, ?_⟩
    rw [State.afterRx_of_third hcnt]
    cases hx : s.excf with
    | true => simp [resolvedExpLen_toNat, hbyte, hn, hx]
    | false => simp [resolvedExpLen_toNat, hbyte, hn, hx]
  · rw [step_of_rx hr hp] at ht
    exact stepRx_later (s := s.pastReset.countBusy) h3 ht

/-- Settles O50: no request outstanding, the loop goes on or ends; one outstanding, it is unanswered, answered or fails. -/
theorem receptionEndsExactlyThen : Obligations.ReceptionEndsExactlyThen := by
  refine ⟨fun s hp hr hcap => ?_, fun s t hp hr ht => ?_⟩
  · cases ha : s.awaiting with
    | false =>
      by_cases hlt : s.rxcnt.toNat < s.explen.toNat ∧ s.rxcnt.toNat < 256
      · refine ⟨_, step_of_request hp hr ha hlt.1 hlt.2, ?_⟩
        simp [hp, hlt]
      · have hge : s.explen.toNat ≤ s.rxcnt.toNat ∨ 256 ≤ s.rxcnt.toNat := by omega
        refine ⟨_, step_of_loop_end hp hr ha hge, ?_⟩
        simp [hge, hlt, ha, SameBuf]
    | true =>
      have hc := hcap ha
      cases hready : s.rxReadyNow with
      | false =>
        refine ⟨_, step_of_wait hp hr ha hc hready, ?_⟩
        simp [hp, State.rxReadyNow_eq_false.1 hready]
      | true =>
        cases hok : (s.answerAt 0).ok with
        | true =>
          refine ⟨_, step_of_received hp hr ha hc hready hok, ?_⟩
          simp [hp]
        | false =>
          refine ⟨_, step_of_failed_read hp hr ha hc hready hok, ?_⟩
          simp [State.rxReadyNow_iff.1 hready, SameBuf]
  · rw [step_of_check hr hp] at ht
    rcases stepCheck_next ht with ⟨-, -, rfl⟩ | ⟨-, -, -, rfl⟩ <;> exact ⟨rfl, rfl⟩

/-! ### Phase `CHECK` -/

/-- Settles O51: the outcome of differing counts is written whatever the CRC. -/
theorem sizeMismatchOutcome : Obligations.SizeMismatchOutcome := by
  intro s hp hr hcap hne
  rw [step_of_check hr hp]
  exact ⟨_, stepCheck_of_ne (s := s.pastReset.countBusy) hcap hne, rfl, rfl, rfl, fun _ => rfl, rfl, rfl, rfl,
    List.append_assoc _ _ _⟩

/-- No code from 9 on has a name (R117, U3). -/
theorem exceptionName_eq_none {code : Byte} (h : 9 ≤ code.toNat) : exceptionName code = none := by
  unfold exceptionName
  split
  case h_9 => rfl
  all_goals omega

/-- `RESULT` of a slave's exception as a number (R16). -/
theorem toBits_slaveException_toNat (code : Byte) :
    (ModbusResult.slaveException code).toBits.toNat = 0x0100 + code.toNat := by
  rw [toBits_toNat]
  simp [ModbusResult.kind, ModbusResult.code]

theorem toBits_ok : ModbusResult.ok.toBits = 0 := by decide

theorem toBits_sizeMismatch : ModbusResult.sizeMismatch.toBits = 0x0200#16 := by decide

theorem toBits_crcMismatch : ModbusResult.crcMismatch.toBits = 0x0300#16 := by decide

/-- Settles O52: the mapper's four branches, and the table of names. -/
theorem errorMapperTaxonomy : Obligations.ErrorMapperTaxonomy :=
  ⟨fun _ _ excode => ⟨toBits_sizeMismatch, toBits_crcMismatch, toBits_slaveException_toNat excode, toBits_ok⟩, rfl,
    fun _ => exceptionName_eq_none⟩

/-- The received CRC is right exactly if it is as a number (R84, R114). -/
theorem State.crc16_eq_frameCrc_iff_toNat (s : State) (n : Nat) : crc16 (s.rdFirst (n - 2)) = s.frameCrc n ↔
    (crc16 (s.rdFirst (n - 2))).toNat = (s.rd (n - 1)).toNat * 256 + (s.rd (n - 2)).toNat := by
  rw [← s.frameCrc_toNat, BitVec.toNat_inj]

/-- A step in phase `CHECK` with the expected number of bytes writes the mapper's outcome for their CRC (R114 to R116). -/
theorem step_of_complete {s : State} (hp : s.phase = .check) (hr : s.resetNow = false) (h2 : 2 ≤ s.rxcnt.toNat)
    (hcap : s.rxcnt.toNat ≤ 256) (heq : s.rxcnt = s.explen) {crcOk : Bool}
    (hcrc : (crc16 (s.rdFirst (s.rxcnt.toNat - 2)) == s.frameCrc s.rxcnt.toNat) = crcOk) :
    step s = .next ((s.pastReset.countBusy.crcOver (s.rxcnt.toNat - 2)).finish
      (errorMapper true crcOk s.excf s.excode)) := by
  rw [step_of_check hr hp, ← hcrc]
  exact stepCheck_of_eq (s := s.pastReset.countBusy) h2 hcap heq

/-- Settles O53: a received CRC that differs as a number differs. -/
theorem crcMismatchOutcome : Obligations.CrcMismatchOutcome := by
  intro s hp hr h2 hcap heq hcrc
  have hbad := beq_eq_false_iff_ne.2 (mt (s.crc16_eq_frameCrc_iff_toNat s.rxcnt.toNat).1 hcrc)
  refine ⟨_, step_of_complete hp hr h2 hcap heq hbad, ?_⟩
  simp [errorMapper, errorTrace, SameBuf, toBits_crcMismatch, State.rdFirst]

/-- Settles O54: with both checks passed the mapper reads the flag. -/
theorem completeResponseOutcome : Obligations.CompleteResponseOutcome := by
  intro s hp hr h2 hcap heq hcrc
  have hgood := beq_iff_eq.2 ((s.crc16_eq_frameCrc_iff_toNat s.rxcnt.toNat).2 hcrc)
  refine ⟨_, step_of_complete hp hr h2 hcap heq hgood, ?_⟩
  cases hx : s.excf with
  | true =>
    simp [errorMapper, errorTrace, SameBuf, toBits_slaveException_toNat, hx, State.rdFirst]
  | false =>
    simp [errorMapper, errorTrace, SameBuf, toBits_ok, hx, State.rdFirst]

end Sys2Proof.Machine

namespace Sys2Proof.Machine

/-! ### What a receive loop with any answers ends in -/

/-- The receive loop ends in `r`: it has come to the variables `q` and its condition fails there, or the read after them
fails (R109, R112). -/
def LoopEnds (ans : Nat → RxAnswer) (q r : RxLoop) : Prop :=
  ¬ (q.n < q.exp ∧ q.n < Config.cap) ∧ r = q ∨
  (q.n < q.exp ∧ q.n < Config.cap) ∧ (ans q.used).ok = false ∧ r = { q with used := q.used + 1 }

/-- What every received byte keeps holds where the receive loop ends. -/
theorem rxLoop_induction {ans : Nat → RxAnswer} {P : RxLoop → Prop}
    (hstep : ∀ r, P r → r.n < r.exp ∧ r.n < Config.cap → (ans r.used).ok = true →
      P { r.receive (ans r.used).byte with used := r.used + 1 })
    {fuel : Nat} {r : RxLoop} (h : P r) (hfuel : Config.cap ≤ r.n + fuel) :
    ∃ q, P q ∧ LoopEnds ans q (rxLoop ans fuel r) := by
  induction fuel generalizing r with
  | zero => exact ⟨r, h, .inl ⟨by omega, rfl⟩⟩
  | succ fuel ih =>
    by_cases hlt : r.n < r.exp ∧ r.n < Config.cap
    · cases hok : (ans r.used).ok with
      | true =>
        rw [rxLoop_of_ok hlt hok]
        exact ih (hstep r h hlt hok) (by simp; omega)
      | false => exact ⟨r, h, .inr ⟨hlt, hok, rxLoop_of_fail hlt hok fuel⟩⟩
    · exact ⟨r, h, .inl ⟨hlt, rxLoop_of_end hlt fuel⟩⟩

/-- The bytes of the answers that the buffer has room for. -/
def answerBytes (ans : Nat → RxAnswer) : List Byte := (List.range Config.cap).map fun k => (ans k).byte

theorem answerBytes_length (ans : Nat → RxAnswer) : (answerBytes ans).length = Config.cap := by simp [answerBytes]

theorem answerBytes_getD (ans : Nat → RxAnswer) {k : Nat} (h : k < 256) : (answerBytes ans).getD k 0 = (ans k).byte := by
  simp [answerBytes, Config.cap, h]

theorem answerBytes_take (ans : Nat → RxAnswer) {n : Nat} (h : n ≤ 256) :
    (answerBytes ans).take n = (List.range n).map fun k => (ans k).byte := by
  rw [answerBytes, ← List.map_take, List.take_range, Nat.min_eq_left (show n ≤ Config.cap from h)]

/-- A received byte keeps the count within the expected length: R111 resolves to no less than the three bytes received. -/
theorem RxLoop.receive_n_le_exp {r : RxLoop} (h : r.n < r.exp) (b : Byte) : (r.receive b).n ≤ (r.receive b).exp := by
  by_cases h3 : r.n + 1 = 3
  · rw [RxLoop.receive_third h3]
    simp only
    split_ifs <;> omega
  · by_cases h2 : r.n + 1 = 2
    · rw [RxLoop.receive_second h2]
      exact h
    · rw [RxLoop.receive_other h2 h3]
      exact h

/-- The receive loop has received its bytes in order into `buf`, each from a successful read, and no more than it expects. -/
structure Collects (ans : Nat → RxAnswer) (buf : List Byte) (r : RxLoop) : Prop extends
    HoldsFirst (answerBytes ans) r where
  n_le_exp : r.n ≤ r.exp
  all_ok : ∀ k, k < r.n → (ans k).ok = true
  drop_eq : r.buf.drop r.n = buf.drop r.n

/-- The receive loop has the variables of an unflagged read response: `EXPLEN` 257, from the third byte on the length that
byte gives (R107, R110, R111). -/
structure ExpectsRead (ans : Nat → RxAnswer) (r : RxLoop) : Prop extends HoldsFirst (answerBytes ans) r where
  excf_eq : r.excf = false
  exp_eq : r.exp = if r.n < 3 then 257 else 5 + (ans 2).byte.toNat

section Answers

variable {ans : Nat → RxAnswer} {buf : List Byte} {r : RxLoop}

theorem HoldsFirst.n_le_cap (h : HoldsFirst (answerBytes ans) r) : r.n ≤ 256 :=
  h.n_le.trans (answerBytes_length ans).le

/-- The byte answered next is the next of `answerBytes`. -/
theorem HoldsFirst.answer_eq (h : HoldsFirst (answerBytes ans) r) (hcap : r.n < Config.cap) :
    (ans r.used).byte = (answerBytes ans).getD r.n 0 := by
  rw [h.used_eq, answerBytes_getD ans hcap]

theorem HoldsFirst.receive_answer (h : HoldsFirst (answerBytes ans) r) (hcap : r.n < Config.cap) :
    HoldsFirst (answerBytes ans) { r.receive (ans r.used).byte with used := r.used + 1 } := by
  rw [h.answer_eq hcap]
  exact h.receive (answerBytes_length ans).le (answerBytes_length ans ▸ hcap)

/-- The byte just answered and stored reads back. -/
theorem HoldsFirst.getD_set_answer (h : HoldsFirst (answerBytes ans) r) (hcap : r.n < Config.cap) {i : Nat} (hi : r.n = i) :
    (r.buf.set r.n (ans r.used).byte).getD i 0 = (ans i).byte := by
  rw [h.answer_eq hcap, h.getD_set hcap hi, answerBytes_getD ans (hi ▸ hcap)]

theorem holdsFirst_rxStart {resp : List Byte} (hl : buf.length = 256) : HoldsFirst resp (rxStart buf) :=
  ⟨Nat.zero_le _, rfl, hl, rfl⟩

theorem collects_rxStart (hl : buf.length = 256) : Collects ans buf (rxStart buf) :=
  { holdsFirst_rxStart hl with
    n_le_exp := Nat.zero_le _
    all_ok := nofun
    drop_eq := rfl }

theorem expectsRead_rxStart (hl : buf.length = 256) (hfc : (buf.getD 1 0).toNat ≤ 4) : ExpectsRead ans (rxStart buf) :=
  { holdsFirst_rxStart hl with
    excf_eq := rfl
    exp_eq := if_neg (Nat.not_lt.2 hfc) }

/-- The next byte is collected behind the others, and the loop goes on. -/
theorem Collects.receive (h : Collects ans buf r) (hlt : r.n < r.exp ∧ r.n < Config.cap) (hok : (ans r.used).ok = true) :
    Collects ans buf { r.receive (ans r.used).byte with used := r.used + 1 } := by
  have hfirst := h.receive_answer hlt.2
  obtain ⟨hbuf, hn, -⟩ := r.receive_fields (ans r.used).byte
  exact
    { hfirst with
      n_le_exp := RxLoop.receive_n_le_exp hlt.1 _
      all_ok := fun k hk => by
        simp only [hn] at hk
        rcases Nat.lt_succ_iff_lt_or_eq.1 hk with hk | rfl
        · exact h.all_ok k hk
        · exact h.used_eq ▸ hok
      drop_eq := by
        have hdrop := congrArg (List.drop 1) h.drop_eq
        simp only [List.drop_drop] at hdrop
        simp only [hbuf, hn]
        rw [List.drop_set_of_lt (Nat.lt_succ_self _), hdrop] }

/-- The second byte does not flag the response, the third resolves its length, no other decides anything (R110, R111). -/
theorem ExpectsRead.receive (h : ExpectsRead ans r) (hbit : (ans 1).byte.getLsbD 7 = false)
    (hcap : r.n < Config.cap) : ExpectsRead ans { r.receive (ans r.used).byte with used := r.used + 1 } := by
  have hget := fun i => h.getD_set_answer hcap (i := i)
  have hfirst := h.receive_answer hcap
  have hexcf := h.excf_eq
  have hexp := h.exp_eq
  obtain h2 | h3 | ⟨h2, h3⟩ : r.n + 1 = 2 ∨ r.n + 1 = 3 ∨ r.n + 1 ≠ 2 ∧ r.n + 1 ≠ 3 := by omega
  · have hn : r.n = 1 := by omega
    rw [RxLoop.receive_second h2, hget 1 hn] at hfirst ⊢
    exact
      { hfirst with
        excf_eq := by simpa [hexcf] using hbit
        exp_eq := by simp [hn, hexp] }
  · have hn : r.n = 2 := by omega
    rw [RxLoop.receive_third h3, hget 2 hn] at hfirst ⊢
    exact
      { hfirst with
        excf_eq := hexcf
        exp_eq := by simp [hn, hexcf, hexp]; omega }
  · rw [RxLoop.receive_other h2 h3] at hfirst ⊢
    exact
      { hfirst with
        excf_eq := hexcf
        exp_eq := by simpa [show r.n + 1 < 3 ↔ r.n < 3 by omega] using hexp }

/-- R122's receive loop collects the answers until it ends. -/
theorem exists_collects (ans : Nat → RxAnswer) (hl : buf.length = 256) :
    ∃ q, Collects ans buf q ∧ LoopEnds ans q (rxLoop ans 256 (rxStart buf)) :=
  rxLoop_induction (fun _ h => h.receive) (collects_rxStart hl) (Nat.le_add_left 256 _)

/-- A count that is not the expected length is a size mismatch (R113). -/
theorem RxLoop.outcome_of_ne (h : r.n ≠ r.exp) : r.outcome = .sizeMismatch := if_pos h

end Answers

/-- Settles O58: each received byte is stored behind the others, and the read that ends the loop stores none. -/
theorem transactLeavesReceivedBytes : Obligations.TransactLeavesReceivedBytes := by
  intro buf psz ans hl _ _
  obtain ⟨q, hq, hend⟩ := exists_collects ans ((withRequestCrc_length buf psz).trans hl)
  have hcap := hq.n_le_cap
  have hexp := hq.n_le_exp
  have hused := hq.used_eq
  have htake := hq.take_eq.trans (answerBytes_take ans hcap)
  rw [transact_eq]
  rcases hend with ⟨-, e⟩ | ⟨⟨hlt, hltcap⟩, -, e⟩ <;> rw [e]
  · exact ⟨hcap, hq.buf_length, by simp only; omega, htake, hq.drop_eq⟩
  · have hltcap : q.n < 256 := hltcap
    exact ⟨hcap, hq.buf_length, by simp only; omega, htake, hq.drop_eq⟩

/-- Settles O60: a failed read ends the loop below the expected length, and a byte count of 252 or more asks for more than
256 bytes. -/
theorem failedReadGivesSizeMismatch : Obligations.FailedReadGivesSizeMismatch := by
  intro buf psz ans hl h2 _
  have hl' := (withRequestCrc_length buf psz).trans hl
  refine ⟨fun ⟨k, hk, hfail⟩ => ?_, fun hok hfc hbit hcount => ?_⟩
  · obtain ⟨q, hq, hend⟩ := exists_collects ans hl'
    rw [transact_eq] at hk ⊢
    rcases hend with ⟨-, e⟩ | ⟨⟨hlt, -⟩, -, e⟩ <;> rw [e] at hk ⊢
    · have hgood := hq.all_ok k (hq.used_eq ▸ hk)
      simp [hfail] at hgood
    · exact RxLoop.outcome_of_ne (Nat.ne_of_lt hlt)
  · have hstart := expectsRead_rxStart (ans := ans) hl' (withRequestCrc_getD_one buf h2 ▸ hfc)
    obtain ⟨q, hq, hend⟩ := rxLoop_induction (fun _ h hlt _ => h.receive hbit hlt.2) (fuel := 256) hstart
      (Nat.le_add_left 256 _)
    have hcap := hq.n_le_cap
    have hexp := hq.exp_eq
    rw [transact_eq]
    rcases hend with ⟨hge, e⟩ | ⟨⟨-, hltcap⟩, hfail, -⟩
    · rw [show Config.cap = 256 from rfl] at hge
      have hn : q.n = 256 := by split at hexp <;> omega
      rw [hn, if_neg (by decide)] at hexp
      rw [e]
      exact ⟨RxLoop.outcome_of_ne (by omega), hn, hexp⟩
    · have hgood := hok q.used (hq.used_eq ▸ hltcap)
      simp [hfail] at hgood

end Sys2Proof.Machine

namespace Sys2Proof.Machine

/-! ### An idle block -/

/-- Settles O9: with no word presented the step only moves the reset input on. -/
theorem idleStepRetainsState : Obligations.IdleStepRetainsState := fun _ hi hr hc => step_of_no_command hr hi hc

/-! ### What accepting a word leaves in `ERR` -/

/-- Settles O41: of the three things accepting a word can do, only a command error leaves a cause, and it writes `ERR`
alone. -/
theorem commandErrorChangesOnlyErr : Obligations.CommandErrorChangesOnlyErr := by
  intro s t w rest hw ht hcause
  rcases accept_next ((step_of_presents hw).symm.trans ht) with ⟨e, rfl⟩ | ⟨m, v, c, -, rfl⟩ | ⟨psize, -, -, rfl⟩
  · rfl
  · exact absurd rfl hcause
  · exact absurd rfl hcause

/-- R36's limit on the raw fields of a command's word is the limit on the command's operand. -/
theorem wordBeyondLimit_encode (i : Instr) : WordBeyondLimit (encode i) ↔ i.wellFormed = false := by
  cases i <;> simp [WordBeyondLimit, encode, Instr.wellFormed] <;> omega

theorem wordBeyondLimit_of_decode {w : CmdWord} {i : Instr} (h : decode w = .cmd i) :
    WordBeyondLimit w ↔ i.wellFormed = false := by
  rw [← encode_of_decode h, wordBeyondLimit_encode]

/-- A covered word outside its limit raises `BOUNDS` (R36, R132). -/
theorem accept_cause_of_beyond {w : CmdWord} {s t : State} (hcov : ∃ r ∈ opcodeRows, r.covers w = true)
    (hb : WordBeyondLimit w) (ht : accept w s = .next t) : t.cause = 3 := by
  obtain ⟨i, hi⟩ := decode_cmd_iff.2 hcov
  have hexec := (boundsRaisedExactlyOutsideLimits i s).2 ((wordBeyondLimit_of_decode hi).1 hb)
  obtain rfl := Host.Outcome.next.inj (hexec.symm.trans ((accept_cmd hi s).symm.trans ht))
  rfl

/-- A command inside its limit leaves `CAUSE` 0 and `STICKY` as it was (R133). -/
theorem accept_err_of_wellFormed {w : CmdWord} {i : Instr} {s t : State} (hi : decode w = .cmd i)
    (hwf : i.wellFormed = true) (ht : accept w s = .next t) : t.cause = 0 ∧ t.sticky = s.sticky := by
  obtain ⟨u, hu, herr⟩ := (boundsRaisedExactlyOutsideLimits i s).1 hwf
  obtain rfl := Host.Outcome.next.inj (hu.symm.trans ((accept_cmd hi s).symm.trans ht))
  exact herr

/-- A covered word inside its limit leaves no cause (R132, R133). -/
theorem accept_cause_of_within {w : CmdWord} {s t : State} (hcov : ∃ r ∈ opcodeRows, r.covers w = true)
    (hb : ¬ WordBeyondLimit w) (ht : accept w s = .next t) : t.cause = 0 := by
  obtain ⟨i, hi⟩ := decode_cmd_iff.2 hcov
  rw [wordBeyondLimit_of_decode hi, Bool.not_eq_false] at hb
  exact (accept_err_of_wellFormed hi hb ht).1

/-- Settles O42: the decoder decides `ILLOP` and `RSVD`, the command's limit `BOUNDS`. -/
theorem causeOfEveryWord : Obligations.CauseOfEveryWord := by
  intro s w rest hw
  obtain ⟨t, ht⟩ := accept_total w (s.taken rest)
  refine ⟨t, (step_of_presents hw).trans ht, fun hop => ?_, fun hop hno => ?_,
    fun hcov hb => accept_cause_of_beyond hcov hb ht, fun hcov hb => accept_cause_of_within hcov hb ht⟩
  · obtain rfl := Host.Outcome.next.inj ((accept_illop (decode_illop_iff.2 hop) _).symm.trans ht)
    rfl
  · obtain rfl := Host.Outcome.next.inj ((accept_rsvd (decode_rsvd_iff.2 ⟨hop, hno⟩) _).symm.trans ht)
    rfl

/-- Accepting a word sets `STICKY` exactly with a cause, and never clears it (R131, R133). -/
theorem accept_sticky {w : CmdWord} {s t : State} (ht : accept w s = .next t) :
    t.sticky = (s.sticky || t.cause != 0) := by
  rcases accept_next ht with ⟨e, rfl⟩ | ⟨m, v, c, -, rfl⟩ | ⟨psize, -, -, rfl⟩
  · cases e <;> simp [CmdError.code]
  · simp
  · simp

/-- An engine step leaves `ERR` (R133). -/
theorem step_busy_keeps_err {s t : State} (hr : s.resetNow = false) (hb : s.phase ≠ .idle) (ht : step s = .next t) :
    t.cause = s.cause ∧ t.sticky = s.sticky := by
  obtain ⟨-, hcause, hsticky, -⟩ := registersHaveTheirWriters.2 s t hb hr ht
  exact ⟨hcause, hsticky⟩

/-- Without reset no step clears `STICKY` (R133). -/
theorem step_keeps_sticky {s t : State} (hr : s.resetNow = false) (ht : step s = .next t) (hs : s.sticky = true) :
    t.sticky = true := by
  by_cases hi : s.phase = .idle
  · cases hc : s.cmds with
    | nil =>
      obtain rfl := Host.Outcome.next.inj ((step_of_no_command hr hi hc).symm.trans ht)
      exact hs
    | cons w rest =>
      simp [accept_sticky ((step_of_presents ⟨hi, hr, hc⟩).symm.trans ht), hs]
  · exact (step_busy_keeps_err hr hi ht).2.trans hs

/-- Settles O43: a word accepted, nothing presented, an engine step, a reset. -/
theorem stickyClearedOnlyByReset : Obligations.StickyClearedOnlyByReset := by
  refine ⟨fun s t w rest i hw hi hwf ht => ?_, fun s t => step_keeps_sticky,
    fun s t w rest hw ht => ?_, fun s t => step_busy_keeps_err, fun s t hr ht => ?_⟩
  · exact accept_err_of_wellFormed (s := s.taken rest) hi hwf ((step_of_presents hw).symm.trans ht)
  · exact accept_sticky (s := s.taken rest) ((step_of_presents hw).symm.trans ht)
  · obtain rfl := Host.Outcome.next.inj ((step_of_reset hr).symm.trans ht)
    rfl

/-! ### The trace log -/

/-- The same state with this trace log. -/
def State.withTrace (s : State) (log : List TraceEvent) : State := { s with trace := log }

/-- From the same state with any other trace log, `f` answers the same next state but for its trace log. -/
def TraceBlind (f : State → Host.Outcome State Fault Refusal) : Prop :=
  ∀ (s t : State) (log : List TraceEvent), f s = .next t → ∃ log', f (s.withTrace log) = .next (t.withTrace log')

theorem traceBlind_stepTx : TraceBlind stepTx := by
  intro s t log ht
  rcases stepTx_next ht with ⟨hlt, hcap, hr, rfl⟩ | ⟨hlt, hcap, hr, rfl⟩ | ⟨hge, rfl⟩
  · exact ⟨log, stepTx_of_ready (s := s.withTrace log) hlt hcap hr⟩
  · exact ⟨log, stepTx_of_not_ready (s := s.withTrace log) hlt hcap hr⟩
  · exact ⟨log, stepTx_of_done (s := s.withTrace log) hge⟩

theorem State.afterRx_withTrace (s : State) (log : List TraceEvent) :
    (s.withTrace log).afterRx = s.afterRx.withTrace log := by
  simp only [State.afterRx, apply_ite (State.withTrace · log)]
  rfl

theorem traceBlind_stepRx : TraceBlind stepRx := by
  intro s t log ht
  rcases stepRx_next ht with ⟨ha, ht⟩ | ⟨ha, he, hc, rfl⟩ | ⟨ha, hge, rfl⟩
  · obtain ⟨hc, ⟨hr, rfl⟩ | ⟨hr, hok, rfl⟩ | ⟨hr, hok, rfl⟩⟩ := awaitRx_next ht
    · exact ⟨log, stepRx_of_wait (s := s.withTrace log) ha hc hr⟩
    · refine ⟨log, ?_⟩
      rw [← State.afterRx_withTrace]
      exact stepRx_of_ok (s := s.withTrace log) ha hc hr hok
    · exact ⟨log, stepRx_of_fail (s := s.withTrace log) ha hc hr hok⟩
  · exact ⟨log, stepRx_of_request (s := s.withTrace log) ha he hc⟩
  · exact ⟨log, stepRx_of_end (s := s.withTrace log) ha hge⟩

/-- Phase `CHECK` appends the same events to either log (R113, R114, R124). -/
theorem traceBlind_stepCheck : TraceBlind stepCheck := by
  intro s t log ht
  rcases stepCheck_next ht with ⟨hcap, hne, rfl⟩ | ⟨h2, hcap, heq, rfl⟩
  · exact ⟨_, stepCheck_of_ne (s := s.withTrace log) hcap hne⟩
  · exact ⟨_, stepCheck_of_eq (s := s.withTrace log) h2 hcap heq⟩

/-- A checked command whose effect does not look at the trace log. -/
theorem checked_withTrace {bad : Bool} {s e t : State} (log : List TraceEvent) (h : checked bad s e = .next t) :
    checked bad (s.withTrace log) (e.withTrace log) = .next (t.withTrace log) := by
  rcases checked_next.1 h with ⟨hb, rfl⟩ | ⟨hb, rfl⟩
  · exact checked_of_beyond hb ..
  · exact checked_of_within hb ..

/-- Acceptance appends the same `TX_FRAME` to either log (R105, R124). -/
theorem traceBlind_execXact (psize : Half) : TraceBlind (execXact psize) := by
  intro s t log ht
  rcases execXact_next ht with ⟨hout, rfl⟩ | ⟨h2, h254, rfl⟩
  · exact ⟨_, execXact_out_of_range hout (s.withTrace log)⟩
  · exact ⟨_, execXact_of_range h2 h254 (s.withTrace log)⟩

theorem traceBlind_exec (i : Instr) : TraceBlind (exec i) := by
  cases i with
  | xact psize => exact traceBlind_execXact psize
  | stb off byte => exact fun s t log h => ⟨log, checked_withTrace log ((exec_stb ..).symm.trans h)⟩
  | ldb off => exact fun s t log h => ⟨log, checked_withTrace log ((exec_ldb ..).symm.trans h)⟩
  | bldRh addr start count => exact fun s t log h => ⟨log, checked_withTrace log ((exec_bldRh ..).symm.trans h)⟩
  | bldRi addr start count => exact fun s t log h => ⟨log, checked_withTrace log ((exec_bldRi ..).symm.trans h)⟩
  | _ => exact fun s t log h => ⟨log, checked_withTrace log h⟩

theorem traceBlind_accept (w : CmdWord) : TraceBlind (accept w) := by
  intro s t log ht
  cases hd : decode w with
  | cmd i =>
    rw [accept_cmd hd] at ht ⊢
    exact traceBlind_exec i s t log ht
  | rsvd =>
    obtain rfl := Host.Outcome.next.inj ((accept_rsvd hd s).symm.trans ht)
    exact ⟨log, accept_rsvd hd (s.withTrace log)⟩
  | illop =>
    obtain rfl := Host.Outcome.next.inj ((accept_illop hd s).symm.trans ht)
    exact ⟨log, accept_illop hd (s.withTrace log)⟩

/-- Settles O16: no branch of the step looks at the trace log. -/
theorem traceChangesNothing : Obligations.TraceChangesNothing := by
  show TraceBlind step
  intro s t log ht
  rcases step_next ht with
    ⟨hr, rfl⟩ | ⟨hr, hi, hc, rfl⟩ | ⟨w, rest, hw, ht⟩ | ⟨hr, hp, ht⟩ | ⟨hr, hp, ht⟩ | ⟨hr, hp, ht⟩
  · exact ⟨log, step_of_reset (s := s.withTrace log) hr⟩
  · exact ⟨log, step_of_no_command (s := s.withTrace log) hr hi hc⟩
  · rw [step_of_presents (s := s.withTrace log) hw]
    exact traceBlind_accept w (s.taken rest) t log ht
  · rw [step_of_tx (s := s.withTrace log) hr hp]
    exact traceBlind_stepTx s.pastReset.countBusy t log ht
  · rw [step_of_rx (s := s.withTrace log) hr hp]
    exact traceBlind_stepRx s.pastReset.countBusy t log ht
  · rw [step_of_check (s := s.withTrace log) hr hp]
    exact traceBlind_stepCheck s.pastReset.countBusy t log ht

end Sys2Proof.Machine

namespace Sys2Proof.Machine

/-! ### How a running transaction ends -/

/-- An engine step in phase `TX` leaves the block busy (R105, R107). -/
theorem stepTx_phase_ne_idle {s t : State} (hp : s.phase = .tx) (ht : stepTx s = .next t) : t.phase ≠ .idle := by
  rcases stepTx_next ht with ⟨-, -, -, rfl⟩ | ⟨-, -, -, rfl⟩ | ⟨-, rfl⟩ <;> simp [hp]

/-- An engine step in phase `RX` leaves the block busy: a failed read too only ends the loop (R109, R112). -/
theorem stepRx_phase_ne_idle {s t : State} (hp : s.phase = .rx) (ht : stepRx s = .next t) : t.phase ≠ .idle := by
  rcases stepRx_next ht with ⟨-, ht⟩ | ⟨-, -, -, rfl⟩ | ⟨-, -, rfl⟩
  · obtain ⟨-, ⟨-, rfl⟩ | ⟨-, -, rfl⟩ | ⟨-, -, rfl⟩⟩ := awaitRx_next ht <;> simp [hp]
  · simp [hp]
  · simp

/-- An engine step in phase `CHECK` writes the result, whichever it is (R113 to R116). -/
theorem stepCheck_valid {s t : State} (ht : stepCheck s = .next t) : t.valid = true := by
  rcases stepCheck_next ht with ⟨-, -, rfl⟩ | ⟨-, -, -, rfl⟩ <;> rfl

/-- Settles O11: a reset step answers `afterReset`; of the engine steps only one in phase `CHECK` leaves the block idle,
and it writes the result. -/
theorem onlyResetAbandonsXact : Obligations.OnlyResetAbandonsXact := by
  refine ⟨fun s _ hr => ⟨_, step_of_reset hr, ?_⟩, fun s t hb hr ht hidle => ?_⟩
  · simp
  · rcases step_busy_next hr hb ht with ⟨hp, ht⟩ | ⟨hp, ht⟩ | ⟨hp, ht⟩
    · exact absurd hidle (stepTx_phase_ne_idle (s := s.pastReset.countBusy) hp ht)
    · exact absurd hidle (stepRx_phase_ne_idle (s := s.pastReset.countBusy) hp ht)
    · exact ⟨hp, stepCheck_valid ht⟩

end Sys2Proof.Machine

namespace Sys2Proof.Machine

/-! ### The printed words and the state after reset -/

/-- The words that decode to a command are its one encoding (R50, R52, R53). -/
theorem decode_eq_cmd_iff {w : CmdWord} {i : Instr} : decode w = .cmd i ↔ encode i = w :=
  ⟨encode_of_decode, fun h => h ▸ decode_encode i⟩

/-- Settles O5: each printed word is the encoding of the command it is printed for. -/
theorem printedWordsDecode : Obligations.PrintedWordsDecode := by
  simp only [Obligations.PrintedWordsDecode, decode_eq_cmd_iff]
  decide

/-- Settles O12: the state after reset is idle and its registers are 0, which decides every clause of the invariant. -/
theorem resetMeetsInvariant : Obligations.ResetMeetsInvariant := State.Inv.reset

end Sys2Proof.Machine
